-- ==== Sys2Proof/Word.lean ====
section
/-! DEFINITION. The widths of the block's data (00_scope.md R6, R8): bytes, 16-bit addresses and
ports, 19-bit physical RAM offsets, 14-bit ROM offsets, the 32-bit Bus Transaction Word, and the
index types of the four modules and the four control registers. -/

namespace Sys2Proof

/-- A byte, DATA_WIDTH = 8 (R6). -/
abbrev Byte := BitVec 8

/-- A logical memory address, LOGICAL_ADDR_WIDTH = 16 (R6, R60). -/
abbrev Addr := BitVec 16

/-- A port number, PORT_WIDTH = 16 (R6, R60). -/
abbrev Port := BitVec 16

/-- A physical RAM offset, 19 bits (R8, R60). -/
abbrev PhysAddr := BitVec 19

/-- An offset inside a 16 KB ROM image (R60, R63). -/
abbrev RomOffset := BitVec 14

/-- A Bus Transaction Word (R90). -/
abbrev Btw := BitVec 32

/-- The index of a module, 0..3: a position, never a word the block computes with (R20). -/
abbrev ModuleIx := Fin 4

/-- The number of a control register, 0..3 (R20). -/
abbrev RegIx := Fin 4

/-- A 2-bit field read as an index. -/
def ixOfBits (b : BitVec 2) : Fin 4 := ⟨b.toNat, b.isLt⟩

/-- An index written as a 2-bit field. -/
def bitsOfIx (i : Fin 4) : BitVec 2 := BitVec.ofNat 2 i.val

end Sys2Proof
end

