-- ==== Sys2Proof/Machine/Four.lean ====
section
/-! DEFINITION. A group of four like things by index: the modules of the board, the control registers of
a module (10_state.md R20). -/

namespace Sys2Proof.Machine

structure Four (α : Type) where
  q0 : α
  q1 : α
  q2 : α
  q3 : α
  deriving DecidableEq, Repr

/-- The thing at an index. -/
def Four.get {α : Type} (f : Four α) : Fin 4 → α
  | 0 => f.q0
  | 1 => f.q1
  | 2 => f.q2
  | 3 => f.q3

/-- The group with the thing at one index replaced. -/
def Four.set {α : Type} (f : Four α) (i : Fin 4) (x : α) : Four α :=
  match i with
  | 0 => { f with q0 := x }
  | 1 => { f with q1 := x }
  | 2 => { f with q2 := x }
  | 3 => { f with q3 := x }

/-- The group whose thing at every index is given by that index. -/
def Four.tabulate {α : Type} (g : Fin 4 → α) : Four α :=
  { q0 := g 0, q1 := g 1, q2 := g 2, q3 := g 3 }

end Sys2Proof.Machine
end

