-- ==== Sys2Proof/Syntax.lean ====
section
/-! DEFINITION. The block's instructions: the bus transactions a CpuCore issues and the commands the
host issues, one constructor for each row of spec/opcode_table.json (30_encoding.md R91, R112); and
the signals of a CpuCore, its register state and what it does in one step, as plain data (00_scope.md R13,
R17; 42_scheduler.md R170). -/

namespace Sys2Proof

/-- One transaction or host command. `i` is the initiator (R12), `a` a memory address, `p` a port,
`v` the byte written. Port rows keep the whole port, because the port is an operand of the row
(41_bus_io.md) and because which ports a row claims depends on the parameters (R96 to R99). -/
inductive Instr where
  /-- R121: data memory read. -/
  | mrd (i : ModuleIx) (a : Addr)
  /-- R122: opcode-fetch (M1) memory read. -/
  | mfetch (i : ModuleIx) (a : Addr)
  /-- R125: memory write. -/
  | mwr (i : ModuleIx) (a : Addr) (v : Byte)
  /-- R142: read a control register. -/
  | iordCtrl (i : ModuleIx) (p : Port)
  /-- R143: write a control register. -/
  | iowrCtrl (i : ModuleIx) (p : Port) (v : Byte)
  /-- R146: read the initiator's paging-status byte. -/
  | iordStatus (i : ModuleIx) (p : Port)
  /-- R147: write the initiator's paging register. -/
  | iowrPaging (i : ModuleIx) (p : Port) (v : Byte)
  /-- R148: read the config byte. -/
  | iordCfg (i : ModuleIx) (p : Port)
  /-- R149: write the config byte. -/
  | iowrCfg (i : ModuleIx) (p : Port) (v : Byte)
  /-- R153: read a port that goes to the IoDeviceRegistry. -/
  | iordDev (i : ModuleIx) (p : Port)
  /-- R154: write a port that goes to the IoDeviceRegistry. -/
  | iowrDev (i : ModuleIx) (p : Port) (v : Byte)
  /-- R151: mapped-module read. -/
  | iordMapped (i : ModuleIx) (p : Port)
  /-- R152: mapped-module write. -/
  | iowrMapped (i : ModuleIx) (p : Port) (v : Byte)
  /-- R155: interrupt acknowledge. -/
  | inta (i : ModuleIx)
  /-- R156: return-from-interrupt notice. -/
  | reti (i : ModuleIx)
  /-- R176: one scheduler tick. -/
  | hostTick (resetRequested intRequested : Bool)
  /-- R186: consistent copy of the state. -/
  | hostSnapshot
  /-- R187: request that emulation stop. -/
  | hostCancel
  deriving DecidableEq, Repr

/-- A call of the CpuCore's bus contract (R12, R170). The initiator is not part of the call: it is the
module whose CpuCore issues it. -/
inductive BusCall where
  | readMemory (a : Addr) (isOpcodeFetch : Bool)
  | writeMemory (a : Addr) (v : Byte)
  | readPort (p : Port)
  | writePort (p : Port) (v : Byte)
  | requestInterruptDataLines
  | notifyReturnFromInterrupt
  deriving DecidableEq, Repr, Inhabited

/-- R13: the signals of one CpuCore step. RESET, NMI, INT and WAIT are its inputs; HALT is the CpuCore's
output, here as it stands when the inputs are presented (log entry 16). -/
structure SignalWord where
  reset : Bool
  nmi : Bool
  int : Bool
  wait : Bool
  halt : Bool
  deriving DecidableEq, Repr

/-- The register state of a CpuCore, as bytes. R37: the block neither reads nor writes it, and its contents
belong to the external CPU, so that only equality of two register states means anything here. -/
abbrev CpuRegs := List Byte

/-- What a CpuCore does in one step from a given register state under given inputs, as a finite tree: it
issues its bus calls in program order and may go on as the byte of its last call says (R17, R170).
Every step that ends is such a tree, because a call answers with one of 256 bytes or with none. -/
inductive CpuStep where
  /-- The step ends: the new register state, the HALT output and `cyclesSpent`. -/
  | finish (regs : CpuRegs) (halt : Bool) (cycles : BitVec 32)
  /-- The next bus call, and what follows it. -/
  | call (c : BusCall) (next : CpuStep)
  /-- The rest of the step where the last call returned `v`, and where it did not. -/
  | branch (v : Byte) (same other : CpuStep)
  deriving DecidableEq, Repr, Inhabited

end Sys2Proof
end

