-- ==== Sys2Proof/Config.lean ====
section
/-! DEFINITION. What an implementation fixes: the named parameters of 00_scope.md R7, the registry of
IoDevices (41_bus_io.md R157), the behaviours of the CpuCores (00_scope.md R17), and the free values of
the model (what only an external CpuCore or an external device decides). The default values are in
Machine/Defaults.lean. -/

namespace Sys2Proof

/-- CTRL_PORT_FORM (R96, R97; 92_eei_decisions.md D2). -/
inductive CtrlPortForm where
  | targetModule
  | literal
  deriving DecidableEq, Repr

/-- RAM_OVERFLOW (R65; D11). -/
inductive RamOverflow where
  | wrap
  | fault
  deriving DecidableEq, Repr

/-- WAIT_RELEASE (R145; D14). -/
inductive WaitRelease where
  | anyCtrlWrite
  | resetOnly
  deriving DecidableEq, Repr

/-- A set of ports given by a partial decode: the ports whose masked bits equal `value` (R98). -/
structure PortMatch where
  mask : Port
  value : Port
  deriving DecidableEq, Repr

/-- What one bit of the paging-status byte shows (R38). -/
inductive StatusSource where
  | halt
  | wait
  | fetchBit (k : Fin 16)
  deriving DecidableEq, Repr

/-- STATUS_MAP (R38; D6): the source of each bit of the paging-status byte. -/
structure StatusMap where
  b0 : StatusSource
  b1 : StatusSource
  b2 : StatusSource
  b3 : StatusSource
  b4 : StatusSource
  b5 : StatusSource
  b6 : StatusSource
  b7 : StatusSource
  deriving DecidableEq, Repr

/-- R0_LAYOUT (R21; D8): the positions of R0's write-disable and trigger bits. BANKOFS is bits 2:0 in
every layout, because the source gives it (R22). -/
structure R0Layout where
  wrdis : Fin 8
  rstreq : Fin 8
  nmireq : Fin 8
  intreq : Fin 8
  deriving DecidableEq, Repr

/-- CFG_LAYOUT (R43; D9): the lowest bit of the 2-bit field MAPPED, and the other fields' bits. -/
structure CfgLayout where
  mapped : Fin 7
  ioblk : Fin 8
  slvwait : Fin 8
  lock : Fin 8
  deriving DecidableEq, Repr

/-- One registered IoDevice (R157): the ports it claims, and whether its resource started (R158). -/
structure Device where
  claims : List PortMatch
  started : Bool
  deriving DecidableEq, Repr

/-- One listed value of a CpuCore's step function: what it does from register state `regs` under `inputs`. -/
structure CpuRow where
  regs : CpuRegs
  inputs : SignalWord
  step : CpuStep
  deriving DecidableEq, Repr

/-- The behaviour of one CpuCore (R17): a function of its register state, its inputs and the bus, given by
the values listed here and free everywhere else (`Config.cpuStep`, `Config.cpuAcceptsInt`). `accepts`
says in which register states the CPU accepts an INT (its interrupt-enable flip-flops, R171). -/
structure CpuCore where
  accepts : List (CpuRegs × Bool)
  steps : List CpuRow
  deriving DecidableEq, Repr

/-- The named parameters of R7 that are no memory contents, with the device registry of R157 and the
CpuCores' behaviours of R17. They are fixed when the Motherboard is built, and no transaction or command
changes them (log entry 2). -/
structure Params where
  ctrlPortForm : CtrlPortForm
  pagingPortMatch : PortMatch
  statusMap : StatusMap
  r0Layout : R0Layout
  cfgPort : Port
  cfgLayout : CfgLayout
  ramOverflow : RamOverflow
  waitRelease : WaitRelease
  mappedPortRange : PortMatch
  waitStepCycles : BitVec 32
  resetStepCycles : BitVec 32
  cyclesPerInt : BitVec 64
  devices : List Device
  cores : Machine.Four CpuCore
  deriving DecidableEq, Repr

/-- The answer of an external device to a port read: a draw (R153, R157; 93_implementation_defined.md
'any value'). DESIGN CHOICE, log entry 12: a free value, no number is chosen; safe. -/
opaque Config.deviceByte : Nat → Byte

/-- What module `i`'s CpuCore does from a register state under inputs its behaviour does not list (R17,
R170). DESIGN CHOICE, log entry 10: a free value, no behaviour is chosen; safe. -/
opaque Config.cpuStep : ModuleIx → CpuRegs → SignalWord → CpuStep

/-- Whether module `i`'s CPU accepts an INT in a register state its behaviour does not list (R171). DESIGN
CHOICE, log entry 10: a free value; safe. -/
opaque Config.cpuAcceptsInt : ModuleIx → CpuRegs → Bool

end Sys2Proof
end

