-- ==== Sys2Proof/Machine/Defaults.lean ====
section
/-! DEFINITION. The defaults of the parameters of 00_scope.md R7. -/

namespace Sys2Proof.Machine

/-- STATUS_MAP ascending: address bits 1, 2, 8, 12, 14, 15 to status bits 2..7, with HALT in bit 0 and
WAIT in bit 1 (R38; D6). -/
def statusMapDefault : StatusMap where
  b0 := .halt
  b1 := .wait
  b2 := .fetchBit 1
  b3 := .fetchBit 2
  b4 := .fetchBit 8
  b5 := .fetchBit 12
  b6 := .fetchBit 14
  b7 := .fetchBit 15

/-- R0_LAYOUT: WRDIS bit 3, RSTREQ bit 4, NMIREQ bit 5, INTREQ bit 6 (R21; D8). -/
def r0LayoutDefault : R0Layout where
  wrdis := 3
  rstreq := 4
  nmireq := 5
  intreq := 6

/-- CFG_LAYOUT: MAPPED bits 1:0, IOBLK bit 2, SLVWAIT bit 3, LOCK bit 7 (R43; D9). -/
def cfgLayoutDefault : CfgLayout where
  mapped := 0
  ioblk := 2
  slvwait := 3
  lock := 7

/-- The defaults of R7. CYCLES_PER_INT has no default in the spec: PRESUMED 70908 (log entry 6, unsafe
where a claim rests on it), the 128K-class figure of R247. No device is registered: DESIGN CHOICE,
log entry 11. Nothing is listed of the CpuCores' behaviours: every step of theirs is free (log entry 10). -/
def defaultParams : Params where
  ctrlPortForm := .targetModule
  pagingPortMatch := { mask := 0x8002, value := 0x0000 }
  statusMap := statusMapDefault
  r0Layout := r0LayoutDefault
  cfgPort := 0x4FFF
  cfgLayout := cfgLayoutDefault
  ramOverflow := .wrap
  waitRelease := .anyCtrlWrite
  mappedPortRange := { mask := 0x0000, value := 0x0000 }
  waitStepCycles := 4
  resetStepCycles := 3
  cyclesPerInt := 70908
  devices := []
  cores := Four.tabulate fun _ => { accepts := [], steps := [] }

end Sys2Proof.Machine
end

