-- ==== Sys2Proof/Machine/Ports.lean ====
section
/-! DEFINITION. The port decode of 30_encoding.md R96 to R101: which ports are control-register,
paging, config and mapped-module ports, and the row a port access decodes to. -/

namespace Sys2Proof.Machine

/-- The port lies in the set a partial decode gives. -/
def portHits (m : PortMatch) (p : Port) : Bool := (p &&& m.mask) == m.value

/-- R96 (default form) and R97 (literal form). -/
def isCtrlPort (q : Params) (p : Port) : Bool :=
  match q.ctrlPortForm with
  | .targetModule => (p &&& 0xCCFF) == 0x00FF
  | .literal => p == 0x00FF || p == 0x11FF || p == 0x22FF || p == 0x33FF

/-- R96: the target module is `port[13:12]`; R97: in the literal form it is the initiator. -/
def ctrlTarget (q : Params) (i : ModuleIx) (p : Port) : ModuleIx :=
  match q.ctrlPortForm with
  | .targetModule => ixOfBits (p.extractLsb' 12 2)
  | .literal => i

/-- R96, R97: the register is `port[9:8]`. -/
def ctrlReg (p : Port) : RegIx := ixOfBits (p.extractLsb' 8 2)

/-- R98. -/
def isPagingPort (q : Params) (p : Port) : Bool := portHits q.pagingPortMatch p

/-- R99: matched on all 16 bits. -/
def isCfgPort (q : Params) (p : Port) : Bool := p == q.cfgPort

/-- R101: none of the control, paging and config decodes claims the port. -/
def isUnclaimed (q : Params) (p : Port) : Bool :=
  !isCtrlPort q p && !isPagingPort q p && !isCfgPort q p

/-- R100, R150: an access by initiator `i` to an unclaimed port `p` is a mapped-module access when `i`
is 1..3 and `p` lies in MAPPED_PORT_RANGE. Every other unclaimed access goes to the IoDeviceRegistry;
for an initiator 1..3 this happens only under a MAPPED_PORT_RANGE other than the default
(DEDUCED, log entry 8). -/
def isMappedAccess (q : Params) (i : ModuleIx) (p : Port) : Bool :=
  i != 0 && portHits q.mappedPortRange p

/-- R140, R101: the row a port read decodes to. -/
def dispatchRead (q : Params) (i : ModuleIx) (p : Port) : Instr :=
  if isCtrlPort q p then .iordCtrl i p
  else if isPagingPort q p then .iordStatus i p
  else if isCfgPort q p then .iordCfg i p
  else if isMappedAccess q i p then .iordMapped i p
  else .iordDev i p

/-- R141, R101: the row a port write decodes to. -/
def dispatchWrite (q : Params) (i : ModuleIx) (p : Port) (v : Byte) : Instr :=
  if isCtrlPort q p then .iowrCtrl i p v
  else if isPagingPort q p then .iowrPaging i p v
  else if isCfgPort q p then .iowrCfg i p v
  else if isMappedAccess q i p then .iowrMapped i p v
  else .iowrDev i p v

end Sys2Proof.Machine
end

