-- ==== Sys2Proof/WellFormed.lean ====
section
/-! DEFINITION. Which terms of `Instr` spell a transaction: a port row holds only a port that the port
decode gives to it (30_encoding.md R96 to R101, R112). -/

namespace Sys2Proof

open Sys2Proof.Machine

/-- The port is one the paging decode claims, after the control decode (R98, R101). -/
def claimsPaging (q : Params) (p : Port) : Bool := !isCtrlPort q p && isPagingPort q p

/-- The port is the config port, after the control and paging decodes (R99, R101). -/
def claimsCfg (q : Params) (p : Port) : Bool :=
  !isCtrlPort q p && !isPagingPort q p && isCfgPort q p

/-- R112: the condition each row puts on INIT and ADDR beyond the fields' widths. -/
def wfInstr (q : Params) : Instr → Bool
  | .mrd _ _ => true
  | .mfetch _ _ => true
  | .mwr _ _ _ => true
  | .iordCtrl _ p => isCtrlPort q p
  | .iowrCtrl _ p _ => isCtrlPort q p
  | .iordStatus _ p => claimsPaging q p
  | .iowrPaging _ p _ => claimsPaging q p
  | .iordCfg _ p => claimsCfg q p
  | .iowrCfg _ p _ => claimsCfg q p
  | .iordDev i p => isUnclaimed q p && !isMappedAccess q i p
  | .iowrDev i p _ => isUnclaimed q p && !isMappedAccess q i p
  | .iordMapped i p => isUnclaimed q p && isMappedAccess q i p
  | .iowrMapped i p _ => isUnclaimed q p && isMappedAccess q i p
  | .inta _ => true
  | .reti _ => true
  | .hostTick _ _ => true
  | .hostSnapshot => true
  | .hostCancel => true

end Sys2Proof
end

