-- ==== Sys2Proof/Decode.lean ====
section
/-! DEFINITION. The decoder of Bus Transaction Words (30_encoding.md R90 to R94, R112, R113), total on
every 32-bit word and rejecting an `Invalid` word by name, and the encoder, written from the same
fields. -/

namespace Sys2Proof

open Sys2Proof.Machine

/-- Why a word is `Invalid` (R94). Each name is the first condition of R94 that the word breaks. -/
inductive DecodeError where
  /-- MBZ ≠ 0. -/
  | mbzNotZero
  /-- ADDR ≠ 0 in a kind that has no address (INTA, RETI). -/
  | addrNotZero
  /-- DATA ≠ 0 in a kind that writes no byte, or in SNAPSHOT or CANCEL. -/
  | dataNotZero
  /-- KIND = 7 and INIT ≠ 0. -/
  | hostInitNotZero
  /-- KIND = 7 and bits 15:8 ≠ 0. -/
  | hostLowNotZero
  /-- KIND = 7 and HOSTOP ≥ 3. -/
  | hostOpUnassigned
  /-- TICK with DATA[7:2] ≠ 0. -/
  | tickDataReserved
  deriving DecidableEq, Repr

/-- INIT, bits 31:30 (R90). -/
def btwInit (w : Btw) : ModuleIx := ixOfBits (w.extractLsb' 30 2)
/-- KIND, bits 29:27 (R90). -/
def btwKind (w : Btw) : BitVec 3 := w.extractLsb' 27 3
/-- MBZ, bits 26:24 (R90). -/
def btwMbz (w : Btw) : BitVec 3 := w.extractLsb' 24 3
/-- ADDR, bits 23:8 (R90). -/
def btwAddr (w : Btw) : BitVec 16 := w.extractLsb' 8 16
/-- DATA, bits 7:0 (R90). -/
def btwData (w : Btw) : Byte := w.extractLsb' 0 8

/-- R93: a host command. HOSTOP is ADDR[15:8] (bits 23:16 of the word), and ADDR[7:0] (bits 15:8 of the
word) must be zero. -/
def decodeHost (i : ModuleIx) (a : BitVec 16) (d : Byte) : Except DecodeError Instr :=
  if i ≠ 0 then .error .hostInitNotZero
  else if a.extractLsb' 0 8 ≠ 0 then .error .hostLowNotZero
  else match (a.extractLsb' 8 8).toNat with
    | 0 => if d.extractLsb' 2 6 ≠ 0 then .error .tickDataReserved
           else .ok (.hostTick (d.getLsbD 0) (d.getLsbD 1))
    | 1 => if d ≠ 0 then .error .dataNotZero else .ok .hostSnapshot
    | 2 => if d ≠ 0 then .error .dataNotZero else .ok .hostCancel
    | _ => .error .hostOpUnassigned

/-- R91, R92, R112: the fields of a word with MBZ = 0, by KIND. -/
def decodeFields (q : Params) (i : ModuleIx) (k : BitVec 3) (a : BitVec 16) (d : Byte) :
    Except DecodeError Instr :=
  match k.toNat with
  | 0 => if d ≠ 0 then .error .dataNotZero else .ok (.mrd i a)
  | 1 => if d ≠ 0 then .error .dataNotZero else .ok (.mfetch i a)
  | 2 => .ok (.mwr i a d)
  | 3 => if d ≠ 0 then .error .dataNotZero else .ok (dispatchRead q i a)
  | 4 => .ok (dispatchWrite q i a d)
  | 5 => if a ≠ 0 then .error .addrNotZero
         else if d ≠ 0 then .error .dataNotZero else .ok (.inta i)
  | 6 => if a ≠ 0 then .error .addrNotZero
         else if d ≠ 0 then .error .dataNotZero else .ok (.reti i)
  | _ => decodeHost i a d

/-- R112, R113: every 32-bit word is one row or `Invalid`. -/
def decode (q : Params) (w : Btw) : Except DecodeError Instr :=
  if btwMbz w ≠ 0 then .error .mbzNotZero
  else decodeFields q (btwInit w) (btwKind w) (btwAddr w) (btwData w)

/-- R90: a word from its fields, with MBZ = 0. -/
def pack (i : ModuleIx) (k : BitVec 3) (a : BitVec 16) (d : Byte) : Btw :=
  bitsOfIx i ++ k ++ 0#3 ++ a ++ d

/-- R93: TICK's DATA byte, with DATA[0] = resetRequested and DATA[1] = intRequested. -/
def tickData (r n : Bool) : Byte := 0#6 ++ BitVec.ofBool n ++ BitVec.ofBool r

/-- The word that spells an instruction (R90 to R93). -/
def encode : Instr → Btw
  | .mrd i a => pack i 0 a 0
  | .mfetch i a => pack i 1 a 0
  | .mwr i a v => pack i 2 a v
  | .iordCtrl i p => pack i 3 p 0
  | .iowrCtrl i p v => pack i 4 p v
  | .iordStatus i p => pack i 3 p 0
  | .iowrPaging i p v => pack i 4 p v
  | .iordCfg i p => pack i 3 p 0
  | .iowrCfg i p v => pack i 4 p v
  | .iordDev i p => pack i 3 p 0
  | .iowrDev i p v => pack i 4 p v
  | .iordMapped i p => pack i 3 p 0
  | .iowrMapped i p v => pack i 4 p v
  | .inta i => pack i 5 0 0
  | .reti i => pack i 6 0 0
  | .hostTick r n => pack 0 7 0x0000 (tickData r n)
  | .hostSnapshot => pack 0 7 0x0100 0
  | .hostCancel => pack 0 7 0x0200 0

/-- The word that spells a CpuCore's bus call (R91, R92). -/
def encodeCall (i : ModuleIx) : BusCall → Btw
  | .readMemory a true => pack i 1 a 0
  | .readMemory a false => pack i 0 a 0
  | .writeMemory a v => pack i 2 a v
  | .readPort p => pack i 3 p 0
  | .writePort p v => pack i 4 p v
  | .requestInterruptDataLines => pack i 5 0 0
  | .notifyReturnFromInterrupt => pack i 6 0 0

/-- The word an offer of `nbits` bits `w` stands for: the bits above `nbits` are zero. -/
def offeredWord (nbits w : Nat) : Btw := BitVec.ofNat 32 (w % 2 ^ nbits)

/-- The instruction the decoder reads, under the default parameters, from an instruction whose bits are
`w`. A BTW is one 32-bit value and no memory holds it, so there is no byte order to lay out (R90). -/
def decodeTableWord (nbits w : Nat) : Option Instr :=
  match decode defaultParams (offeredWord nbits w) with
  | .ok i => some i
  | .error _ => none

end Sys2Proof
end

