-- ==== Sys2Proof/Machine/Memory.lean ====
section
/-! DEFINITION. A byte array held sparsely in one canonical form: cells with strictly rising addresses,
none equal to what an unlisted address reads as. RAM and the two ROM images are held this way
(10_state.md R48, R49). -/

namespace Sys2Proof.Machine

abbrev Memory := List Host.Cell

/-- What an unlisted address reads as. DESIGN CHOICE, log entry 1: the spec leaves `ramInit` and
`romImage` open (R7, R48, R49); unsafe where a claim rests on this value. -/
def Memory.unlisted : Byte := 0x00

/-- The byte at an address. -/
def Memory.read : Memory → Nat → Byte
  | [], _ => Memory.unlisted
  | (a, v) :: m, k => if k = a then v else Memory.read m k

/-- The cell for a byte, or none where an unlisted address already reads as that byte. -/
def Memory.cell (k : Nat) (v : Byte) : Memory := if v = Memory.unlisted then [] else [(k, v)]

/-- The array with the byte at one address replaced, in canonical form. -/
def Memory.write : Memory → Nat → Byte → Memory
  | [], k, v => Memory.cell k v
  | (a, b) :: m, k, v =>
    if k < a then Memory.cell k v ++ (a, b) :: m
    else if k = a then Memory.cell k v ++ m
    else (a, b) :: Memory.write m k v

/-- The addresses rise strictly from `lo` on, and no cell holds the unlisted byte. -/
def Memory.rising : Nat → Memory → Bool
  | _, [] => true
  | lo, (a, v) :: m => decide (lo ≤ a) && v != Memory.unlisted && Memory.rising (a + 1) m

/-- The canonical form. -/
def Memory.wf (m : Memory) : Bool := Memory.rising 0 m

/-- Every listed address lies below `n`. -/
def Memory.below (n : Nat) (m : Memory) : Bool := m.all fun c => decide (c.1 < n)

end Sys2Proof.Machine
end

