-- ==== Sys2Proof/Machine/Module.lean ====
section
/-! DEFINITION. The records the state is made of (10_state.md R20): a module's state, the board
configuration, the timebase and the host control marks, each with its reset value
(70_reset_and_hazards.md R231, R233, R234). -/

namespace Sys2Proof.Machine

/-- The state of one module (R20). `r` is R0..R3 (R21 to R28), `paging` the paging register (R29),
`lastFetch` is lastOpcodeFetchAddress (R31), `rbc` the register-readback counter (R32). -/
structure ModuleState where
  r : Four Byte
  paging : BitVec 7
  lastFetch : Addr
  rbc : Fin 4
  latchReset : Bool
  latchNmi : Bool
  latchInt : Bool
  waitAsserted : Bool
  rendezvousArmed : Bool
  haltOut : Bool
  deriving DecidableEq, Repr

/-- The board-wide configuration (R39 to R43). -/
structure BoardConfig where
  mapped : ModuleIx
  ioblk : Bool
  slvwait : Bool
  lock : Bool
  deriving DecidableEq, Repr

/-- The timebase (R44 to R46). -/
structure Timebase where
  cycleTotal : BitVec 64
  cadence : BitVec 64
  intDue : Bool
  deriving DecidableEq, Repr

/-- The internal-consistency faults with their recorded values (R201). They are what `HOST.fault`
records; a transaction that raises one answers a next state (log entry 13). -/
inductive InternalFault where
  /-- A memory address decodes outside the four windows (R74): initiator, address. Kept as an assertion,
  as R201 says; no 16-bit address raises it. Safe. -/
  | decodeOutOfWindow (i : ModuleIx) (a : Addr)
  /-- Under RAM_OVERFLOW = Fault only (R65): initiator, address, untruncated offset. Safe: it stops
  where the spec says that it stops. -/
  | ramOverflow (i : ModuleIx) (a : Addr) (offset : Nat)
  deriving DecidableEq, Repr

/-- The host control marks (R47). -/
structure HostControl where
  cancelRequested : Bool
  fault : Option InternalFault
  deriving DecidableEq, Repr

/-- The state R231 gives module `i` at its reset: R0 is `i << 1`. -/
def moduleAtReset (i : ModuleIx) : ModuleState where
  r := { q0 := BitVec.ofNat 8 i.val <<< 1, q1 := 0x00, q2 := 0x00, q3 := 0x00 }
  paging := 0
  lastFetch := 0x0000
  rbc := 3
  latchReset := false
  latchNmi := false
  latchInt := false
  waitAsserted := false
  rendezvousArmed := false
  haltOut := false

/-- R178, R233: CFG after a board reset and at power-on. -/
def configAtReset : BoardConfig where
  mapped := 0
  ioblk := false
  slvwait := false
  lock := false

/-- R233: TB at power-on. -/
def timebaseAtPowerOn : Timebase where
  cycleTotal := 0
  cadence := 0
  intDue := false

/-- R233: HOST at power-on. -/
def hostAtPowerOn : HostControl where
  cancelRequested := false
  fault := none

end Sys2Proof.Machine
end

