-- ==== Sys2Proof/Machine/State.lean ====
section
/-! DEFINITION. The whole state of the block (10_state.md R20) as plain data, with the model's own
fields for what stands outside the block: the words offered to it, the CpuCores' register states and
what the block answered; the reasons a step stops; and the state at power-on (70_reset_and_hazards.md R233). -/

namespace Sys2Proof.Machine

/-- R190: the result record of a tick. -/
structure TickResult where
  haltEntry : Four Bool
  cycles : BitVec 64
  intDue : Bool
  deriving DecidableEq, Repr

/-- R186: the copy a snapshot returns: RAM, every module's R0..R3 and PAGING, CFG and TB. -/
structure Snapshot where
  ram : Memory
  regs : Four (Four Byte)
  paging : Four (BitVec 7)
  cfg : BoardConfig
  tb : Timebase
  deriving DecidableEq, Repr

/-- R157: the calls the block makes on an IoDevice. -/
inductive DeviceCall where
  | readIo (i : ModuleIx) (p : Port)
  | writeIo (i : ModuleIx) (p : Port) (v : Byte)
  | preStep (i : ModuleIx)
  | postStep (i : ModuleIx) (cycles : BitVec 32)
  | reset
  deriving DecidableEq, Repr

/-- What the block gives to the agents outside it. -/
inductive Event where
  /-- A transaction of initiator `i` returned a byte. -/
  | returned (i : ModuleIx) (v : Byte)
  /-- The inputs of module `i`'s CpuCore step in a tick. -/
  | presented (i : ModuleIx) (sig : SignalWord)
  /-- A call on the registered device at place `d` of the registry. -/
  | device (d : Nat) (c : DeviceCall)
  /-- The result of a completed tick. -/
  | tickResult (r : TickResult)
  /-- The answer to a SNAPSHOT. -/
  | snapshot (c : Snapshot)
  deriving DecidableEq, Repr

/-- The state. `mods`, `cfg`, `tb`, `host`, `ram`, `rom0` and `rom1` are the block's (R20). The other
fields are the model's own: `params` holds the parameters of R7, constant; `pending` the words
offered to the block and not yet performed, the next one first; `cpu` each CpuCore's register state,
which only its own steps read and write (R17, R37); `draws` numbers the free values drawn so far;
`out` is what the block gave out during the last step, oldest first. -/
structure State where
  mods : Four ModuleState
  cfg : BoardConfig
  tb : Timebase
  host : HostControl
  ram : Memory
  rom0 : Memory
  rom1 : Memory
  params : Params
  pending : List Btw
  cpu : Four CpuRegs
  draws : Nat
  out : List Event
  deriving DecidableEq, Repr

/-- Why the machine would stop with a fault. -/
inductive Fault where
  /-- No step answers with it: an InternalFault is recorded in `HOST.fault` in a next state, because
  60_exceptions.md R201 says what it leaves (log entry 13). Safe. -/
  | internal (r : InternalFault)
  deriving DecidableEq, Repr

/-- Why a step answers with no next state. -/
inductive Refusal where
  /-- An instruction without a meaning in exec, by its mnemonic; no arm of exec answers with it. Safe. -/
  | notModelled (mnemonic : String)
  /-- The word is `Invalid` (30_encoding.md R94: refused by name, no state change), raised by step. Safe. -/
  | invalidWord (e : DecodeError)
  /-- A TICK after an InternalFault (42_scheduler.md R176: refuse, no state changes). Safe. -/
  | tickAfterFault (r : InternalFault)
  /-- A TICK after a CANCEL (42_scheduler.md R176, R187: refuse, no state changes). Safe. -/
  | tickAfterCancel
  /-- No word is offered: the block acts only on words (00_scope.md R19), raised by step. Safe. -/
  | noWordOffered
  deriving DecidableEq, Repr

/-- The state at power-on (R233), with nothing offered. `ram`, `rom0`, `rom1` list nothing (log entry
1), the parameters have the values of `defaultParams`, and every CPU's register state is the empty one
(R233: the block does not fix it; DESIGN CHOICE, log entry 10). -/
def State.reset : State where
  mods := Four.tabulate moduleAtReset
  cfg := configAtReset
  tb := timebaseAtPowerOn
  host := hostAtPowerOn
  ram := []
  rom0 := []
  rom1 := []
  params := defaultParams
  pending := []
  cpu := { q0 := [], q1 := [], q2 := [], q3 := [] }
  draws := 0
  out := []

end Sys2Proof.Machine
end

