-- ==== Sys2Proof/Machine/Operands.lean ====
section
/-! DEFINITION. The operand forms of the block: the fields of R0, of the paging register and of the
config byte, the window and bank decode of a memory address, the physical offset, the mapped-module
offset and the stop address (20_memory.md R61 to R67; 30_encoding.md R102 to R107); the owner of a port;
and a CpuCore's behaviour where it is asked for (00_scope.md R17). -/

namespace Sys2Proof.Machine

/-- R22: BANKOFS, bits 2:0 of R0. -/
def bankOfs (m : ModuleState) : BitVec 3 := (m.r.get 0).extractLsb' 0 3

/-- R23: WRDIS. -/
def wrdis (q : Params) (m : ModuleState) : Bool := (m.r.get 0).getLsbD q.r0Layout.wrdis.val

/-- R29: PAGE, bits 2:0 of the paging register. -/
def pageField (m : ModuleState) : BitVec 3 := m.paging.extractLsb' 0 3

/-- R29: SCREEN, exported to the external video consumer and read by no rule of the block. -/
def screenBit (m : ModuleState) : Bool := m.paging.getLsbD 3

/-- R29: ROMSEL. -/
def romSel (m : ModuleState) : Bool := m.paging.getLsbD 4

/-- R29: LOCK of the paging register. -/
def pagingLock (m : ModuleState) : Bool := m.paging.getLsbD 5

/-- R29: RAMROM. -/
def ramRom (m : ModuleState) : Bool := m.paging.getLsbD 6

/-- R27, R106: the stop address, R3 the high byte and R2 the low byte. -/
def stopAddr (m : ModuleState) : Addr := m.r.get 3 ++ m.r.get 2

/-- R61: the window of an address. -/
def windowOf (a : Addr) : BitVec 2 := a.extractLsb' 14 2

/-- R61: the offset of an address inside its window. -/
def windowOffset (a : Addr) : BitVec 14 := a.extractLsb' 0 14

/-- R62: window 0 shows a ROM image. -/
def isRom (m : ModuleState) (w : BitVec 2) : Bool := w == 0 && !ramRom m

/-- R62: the RAM bank of a window. There is none outside the four windows (R74), which no 2-bit window
number is. -/
def bankOf (m : ModuleState) (w : BitVec 2) : Option (BitVec 3) :=
  if w = 0 then some 0
  else if w = 1 then some 5
  else if w = 2 then some 2
  else if w = 3 then some (pageField m)
  else none

/-- RAM holds 2^19 bytes (R6, R48). -/
def ramSize : Nat := 2 ^ 19

/-- A ROM image holds 2^14 bytes (R6, R49). -/
def romSize : Nat := 2 ^ 14

/-- R64: the untruncated physical offset of an in-window offset in a bank. -/
def rawOffset (m : ModuleState) (bank : BitVec 3) (off : BitVec 14) : Nat :=
  (bankOfs m).toNat * 65536 + bank.toNat * 16384 + off.toNat

/-- Where a memory access goes. -/
inductive Target where
  | rom (image : Bool) (off : RomOffset)
  | ram (pa : PhysAddr)
  /-- RAM_OVERFLOW = Fault, and the untruncated offset is 2^19 or more (R65). -/
  | overflow (offset : Nat)
  /-- Outside the four windows (R74). -/
  | outside
  deriving DecidableEq, Repr

/-- R64, R65: the RAM byte of an in-window offset in a bank, under the overflow policy. -/
def ramTarget (q : Params) (m : ModuleState) (bank : BitVec 3) (off : BitVec 14) : Target :=
  if ramSize ≤ rawOffset m bank off ∧ q.ramOverflow = .fault then .overflow (rawOffset m bank off)
  else .ram (BitVec.ofNat 19 (rawOffset m bank off))

/-- R61 to R65: the memory-bank selector. -/
def memTarget (q : Params) (m : ModuleState) (a : Addr) : Target :=
  if isRom m (windowOf a) then .rom (romSel m) (windowOffset a)
  else match bankOf m (windowOf a) with
    | some b => ramTarget q m b (windowOffset a)
    | none => .outside

/-- R107: the mapped-module offset of port `p` in the target module. -/
def mappedPa (t : ModuleState) (p : Port) : PhysAddr := bankOfs t ++ p

/-- A byte with one bit set where a condition holds. -/
def bitAt (b : Bool) (k : Nat) : Byte := if b then 1#8 <<< k else 0#8

/-- R104: the config byte as it is read. -/
def cfgByte (q : Params) (c : BoardConfig) : Byte :=
  (bitsOfIx c.mapped).setWidth 8 <<< q.cfgLayout.mapped.val
    ||| bitAt c.ioblk q.cfgLayout.ioblk.val
    ||| bitAt c.slvwait q.cfgLayout.slvwait.val
    ||| bitAt c.lock q.cfgLayout.lock.val

/-- R104: the configuration a written config byte gives; the reserved bits are discarded. -/
def cfgOfByte (q : Params) (v : Byte) : BoardConfig where
  mapped := ixOfBits (v.extractLsb' q.cfgLayout.mapped.val 2)
  ioblk := v.getLsbD q.cfgLayout.ioblk.val
  slvwait := v.getLsbD q.cfgLayout.slvwait.val
  lock := v.getLsbD q.cfgLayout.lock.val

/-- R103: the paging register a written byte gives; bit 7 is discarded. -/
def pagingOfByte (v : Byte) : BitVec 7 := v.extractLsb' 0 7

/-- R7, R153: the value of an unmapped port read. -/
def openBus : Byte := 0xFF

/-- R155: the byte of an interrupt acknowledge. -/
def intaByte : Byte := 0xFF

/-- R157, R158: the place in the registry of the device that owns a port: the first started device that
claims it, so that a port has at most one owner (DESIGN CHOICE for the order, log entry 11). -/
def portOwner (q : Params) (p : Port) : Option Nat :=
  q.devices.findIdx? fun d => d.started && d.claims.any fun c => portHits c p

/-- R157, R158: the places of the registry whose devices are called; a device whose resource failed
behaves as absent. -/
def startedDevices (q : Params) : List Nat :=
  (q.devices.zipIdx.filter fun d => d.1.started).map fun d => d.2

/-- R17: what module `i`'s CpuCore does from a register state under inputs. -/
def coreStep (q : Params) (i : ModuleIx) (regs : CpuRegs) (inputs : SignalWord) : CpuStep :=
  match (q.cores.get i).steps.find? fun row => row.regs == regs && row.inputs == inputs with
  | some row => row.step
  | none => Config.cpuStep i regs inputs

/-- R171: whether module `i`'s CPU accepts an INT in a register state. -/
def coreAcceptsInt (q : Params) (i : ModuleIx) (regs : CpuRegs) : Bool :=
  match (q.cores.get i).accepts.find? fun row => row.1 == regs with
  | some row => row.2
  | none => Config.cpuAcceptsInt i regs

/-- The register state in which a step ends that issues no call. -/
def regsWithoutCalls : CpuStep → CpuRegs
  | .finish regs _ _ => regs
  | .call _ next => regsWithoutCalls next
  | .branch _ _ other => regsWithoutCalls other

/-- A step whose HALT output stays at 1 where `held` says that it was 1 (R174). -/
def keepHalt (held : Bool) : CpuStep → CpuStep
  | .finish regs halt cycles => .finish regs (halt || held) cycles
  | .call c next => .call c (keepHalt held next)
  | .branch v same other => .branch v (keepHalt held same) (keepHalt held other)

end Sys2Proof.Machine
end

