-- ==== Sys2Proof/Machine/Flags.lean ====
section
/-! DEFINITION. The block's flags and signals: the paging-status byte (10_state.md R38), the module mode
(R50), the RESET, NMI, INT and WAIT inputs of a tick (42_scheduler.md R177 to R181), the effective
input of a step (R171) and the halt edge (R183). -/

namespace Sys2Proof.Machine

/-- R38: the value of one status bit's source. -/
def statusBit (m : ModuleState) : StatusSource → Bool
  | .halt => m.haltOut
  | .wait => m.waitAsserted
  | .fetchBit k => m.lastFetch.getLsbD k.val

/-- R38: the paging-status byte of a module, under STATUS_MAP. -/
def statusByte (q : Params) (m : ModuleState) : Byte :=
  bitAt (statusBit m q.statusMap.b0) 0 ||| bitAt (statusBit m q.statusMap.b1) 1
    ||| bitAt (statusBit m q.statusMap.b2) 2 ||| bitAt (statusBit m q.statusMap.b3) 3
    ||| bitAt (statusBit m q.statusMap.b4) 4 ||| bitAt (statusBit m q.statusMap.b5) 5
    ||| bitAt (statusBit m q.statusMap.b6) 6 ||| bitAt (statusBit m q.statusMap.b7) 7

/-- R50: the module modes. -/
inductive Mode where
  | running
  | waiting
  | halted
  deriving DecidableEq, Repr

/-- R50: the mode is derived, and WAITING comes before HALTED. -/
def modeOf (m : ModuleState) : Mode :=
  if m.waitAsserted then .waiting else if m.haltOut then .halted else .running

/-- R177: RESET of a module in a tick. -/
def resetSignal (m : ModuleState) (resetReq : Bool) : Bool := resetReq || m.latchReset

/-- R180: INT of module `i` in a tick. -/
def intSignal (c : BoardConfig) (i : ModuleIx) (m : ModuleState) (intReq : Bool) : Bool :=
  if i = 0 then intReq || m.latchInt else (!c.ioblk && intReq) || m.latchInt

/-- R181: WAIT of module `i` in a tick. -/
def waitSignal (c : BoardConfig) (i : ModuleIx) (m : ModuleState) : Bool :=
  m.waitAsserted || (i != 0 && c.slvwait)

/-- R205: the inputs of module `i` in its slot, read after the slot's module reset (R179). -/
def signalsOf (c : BoardConfig) (i : ModuleIx) (m : ModuleState) (rst intReq : Bool) : SignalWord where
  reset := rst
  nmi := m.latchNmi
  int := intSignal c i m intReq
  wait := waitSignal c i m
  halt := m.haltOut

/-- R171: which input of a step is effective. -/
inductive Effective where
  | reset
  | nmi
  | int
  | wait
  | nothing
  deriving DecidableEq, Repr

/-- R171, R206: RESET > NMI > INT > WAIT; an INT is effective only where the CPU accepts it. -/
def effectiveInput (sig : SignalWord) (acceptsInt : Bool) : Effective :=
  if sig.reset then .reset
  else if sig.nmi then .nmi
  else if sig.int && acceptsInt then .int
  else if sig.wait then .wait
  else .nothing

/-- R183: the halt edge of a step. -/
def haltEdge (before after : Bool) : Bool := after && !before

end Sys2Proof.Machine
end

