-- ==== Sys2Proof/Machine/Ops.lean ====
section
/-! DEFINITION. The named operations over the state: access to a module, to RAM and ROM
(00_scope.md R10), the InternalFault entry (60_exceptions.md R201), the readback handshake and the read
decode (40_bus_memory.md R120, R124), the accepted control-register write (41_bus_io.md R144, R145),
the resets (70_reset_and_hazards.md R231, R178), the timebase advance (42_scheduler.md R184), and the
offer of words and CpuCore steps from outside. -/

namespace Sys2Proof.Machine

/-- Module `i`'s state, `M[i]` (R9). -/
def State.mod (s : State) (i : ModuleIx) : ModuleState := s.mods.get i

/-- The state with `M[i]` replaced. -/
def State.setMod (s : State) (i : ModuleIx) (m : ModuleState) : State :=
  { s with mods := s.mods.set i m }

/-- The block gives an event to the outside. -/
def State.emit (s : State) (e : Event) : State := { s with out := s.out ++ [e] }

/-- R10: MemRead. -/
def State.ramRead (s : State) (pa : PhysAddr) : Byte := s.ram.read pa.toNat

/-- R10: MemWrite. -/
def State.ramWrite (s : State) (pa : PhysAddr) (v : Byte) : State :=
  { s with ram := s.ram.write pa.toNat v }

/-- R10, R63: RomRead; image 1 when `image` is true. -/
def State.romRead (s : State) (image : Bool) (off : RomOffset) : Byte :=
  if image then s.rom1.read off.toNat else s.rom0.read off.toNat

/-- R11, R201: taking an InternalFault. `HOST.fault` records the reason with its values, the transaction
returns nothing, and what was written before stays written. There is no return from it: it is never
cleared (R47). -/
def raiseInternalFault (r : InternalFault) (s : State) : State :=
  { s with host := { s.host with fault := some r } }

/-- A call on the device at place `d` of the registry (R157). -/
def callDevice (d : Nat) (c : DeviceCall) (s : State) : State := s.emit (.device d c)

/-- The same call on every started device, in registry order (R157, R158). -/
def callAllDevices (c : DeviceCall) (s : State) : State :=
  (startedDevices s.params).foldl (fun t d => callDevice d c t) s

/-- The answer of the device to a port read: the next free value (R153, R157). -/
def drawDeviceByte (s : State) : Byte × State :=
  (Config.deviceByte s.draws, { s with draws := s.draws + 1 })

/-- R120: one read of the handshake. The index is computed from the decremented counter. It is called
only while the counter is not 0. -/
def readback (i : ModuleIx) (s : State) : State :=
  let left : Fin 4 := (s.mod i).rbc - 1
  (s.setMod i { s.mod i with rbc := left }).emit (.returned i ((s.mod i).r.get (3 - left)))

/-- R123: rendezvous detection. -/
def rendezvousCheck (i : ModuleIx) (a : Addr) (s : State) : State :=
  if !s.cfg.lock && (s.mod i).rendezvousArmed && a == stopAddr (s.mod i) then
    s.setMod i { s.mod i with waitAsserted := true }
  else s

/-- R124: the read decode once the handshake is over; R65, R74 for the faults. -/
def decodedRead (i : ModuleIx) (a : Addr) (s : State) : State :=
  match memTarget s.params (s.mod i) a with
  | .rom k off => s.emit (.returned i (s.romRead k off))
  | .ram pa => s.emit (.returned i (s.ramRead pa))
  | .overflow off => raiseInternalFault (.ramOverflow i a off) s
  | .outside => raiseInternalFault (.decodeOutOfWindow i a) s

/-- R125 after the WRDIS test: the write decode. A write to a ROM window changes nothing (R67). -/
def decodedWrite (i : ModuleIx) (a : Addr) (v : Byte) (s : State) : State :=
  match memTarget s.params (s.mod i) a with
  | .rom _ _ => s
  | .ram pa => s.ramWrite pa v
  | .overflow off => raiseInternalFault (.ramOverflow i a off) s
  | .outside => raiseInternalFault (.decodeOutOfWindow i a) s

/-- R144: the request triggers of an R0 write. Writing 0 to a trigger bit clears no latch (R24). -/
def requestTriggers (q : Params) (v : Byte) (m : ModuleState) : ModuleState :=
  { m with
    latchReset := m.latchReset || v.getLsbD q.r0Layout.rstreq.val
    latchNmi := m.latchNmi || v.getLsbD q.r0Layout.nmireq.val
    latchInt := m.latchInt || v.getLsbD q.r0Layout.intreq.val }

/-- R145: a write to R2 or R3 arms the rendezvous. -/
def armRendezvous (r : RegIx) (m : ModuleState) : ModuleState :=
  if r = 2 ∨ r = 3 then { m with rendezvousArmed := true } else m

/-- R145: under WAIT_RELEASE = AnyCtrlWrite every accepted write releases a rendezvous wait. -/
def releaseWait (q : Params) (m : ModuleState) : ModuleState :=
  match q.waitRelease with
  | .anyCtrlWrite => { m with waitAsserted := false }
  | .resetOnly => m

/-- R144, R145: what an accepted write of `v` to register `r` does to the target module. -/
def acceptedWrite (q : Params) (r : RegIx) (v : Byte) (m : ModuleState) : ModuleState :=
  let stored := { m with r := m.r.set r v }
  releaseWait q (armRendezvous r (if r = 0 then requestTriggers q v stored else stored))

/-- R144: ctrlAccept. -/
def ctrlAccept (t : ModuleIx) (r : RegIx) (v : Byte) (s : State) : State :=
  s.setMod t (acceptedWrite s.params r v (s.mod t))

/-- R28, R143: whether a control-register write by initiator `i` to module `t` is accepted. -/
def ctrlWriteAccepted (c : BoardConfig) (i t : ModuleIx) : Bool := !c.lock && decide (i ≤ t)

/-- R231. -/
def moduleReset (i : ModuleIx) (s : State) : State := s.setMod i (moduleAtReset i)

/-- R178. -/
def boardReset (s : State) : State := callAllDevices .reset { s with cfg := configAtReset }

/-- R184: the timebase at the end of a tick. -/
def advanceTimebase (perInt sum c0 : BitVec 64) (tb : Timebase) : Timebase :=
  let cadence := tb.cadence + c0
  if perInt ≤ cadence then
    { cycleTotal := tb.cycleTotal + sum, cadence := cadence - perInt, intDue := true }
  else
    { tb with cycleTotal := tb.cycleTotal + sum, cadence := cadence }

/-- R186: the copy a snapshot takes. -/
def snapshotOf (s : State) : Snapshot where
  ram := s.ram
  regs := Four.tabulate fun i => (s.mod i).r
  paging := Four.tabulate fun i => (s.mod i).paging
  cfg := s.cfg
  tb := s.tb

/-- The byte among some events that a transaction returned, where there is one. -/
def returnedByte : List Event → Option Byte
  | [] => none
  | .returned _ v :: _ => some v
  | .presented _ _ :: rest => returnedByte rest
  | .device _ _ :: rest => returnedByte rest
  | .tickResult _ :: rest => returnedByte rest
  | .snapshot _ :: rest => returnedByte rest

/-- The byte that the transaction leading from `s` to `t` returned, where it returned one (R170). -/
def replyOf (s t : State) : Option Byte := returnedByte (t.out.drop s.out.length)

/-- The next word offered to the block, and the state in which it is performed: the word is taken and
nothing has been given out yet. -/
def takeWord (s : State) : Option (Btw × State) :=
  match s.pending with
  | [] => none
  | w :: rest => some (w, { s with pending := rest, out := [] })

end Sys2Proof.Machine
end

