-- ==== Sys2Proof/Machine/BusInterrupt.lean ====
section
/-! DEFINITION. The interrupt transactions INTA and RETI (41_bus_io.md R155, R156). -/

namespace Sys2Proof.Machine

/-- R155: no latch is cleared. -/
def inta (i : ModuleIx) (s : State) : State := s.emit (.returned i intaByte)

/-- R156, R209: the block restores nothing, whichever module returns from its interrupt. -/
def reti (_i : ModuleIx) (s : State) : State := s

/-- INTA (R155). -/
def execInta (i : ModuleIx) (s : State) : Host.Outcome State Fault Refusal := .next (inta i s)

/-- RETI (R156). -/
def execReti (i : ModuleIx) (s : State) : Host.Outcome State Fault Refusal := .next (reti i s)

end Sys2Proof.Machine
end

