-- ==== Sys2Proof/Machine/BusIo.lean ====
section
/-! DEFINITION. The port transactions (41_bus_io.md R140 to R154, R157 to R159): control registers,
paging register and status, board configuration, IoDevices and mapped-module access. -/

namespace Sys2Proof.Machine

/-- R142: reads are not gated. -/
def iordCtrl (i : ModuleIx) (p : Port) (s : State) : State :=
  s.emit (.returned i ((s.mod (ctrlTarget s.params i p)).r.get (ctrlReg p)))

/-- R143: a rejected write changes nothing at all. -/
def iowrCtrl (i : ModuleIx) (p : Port) (v : Byte) (s : State) : State :=
  if ctrlWriteAccepted s.cfg i (ctrlTarget s.params i p) then
    ctrlAccept (ctrlTarget s.params i p) (ctrlReg p) v s
  else s

/-- R146. -/
def iordStatus (i : ModuleIx) (s : State) : State :=
  s.emit (.returned i (statusByte s.params (s.mod i)))

/-- R147: a write to a locked paging register changes nothing. -/
def iowrPaging (i : ModuleIx) (v : Byte) (s : State) : State :=
  if pagingLock (s.mod i) then s else s.setMod i { s.mod i with paging := pagingOfByte v }

/-- R148. -/
def iordCfg (i : ModuleIx) (s : State) : State :=
  s.emit (.returned i (cfgByte s.params s.cfg))

/-- R149: only module 0 writes the board configuration. -/
def iowrCfg (i : ModuleIx) (v : Byte) (s : State) : State :=
  if i = 0 then { s with cfg := cfgOfByte s.params v } else s

/-- R153: open bus where no device owns the port; else the device is called and answers with a draw. -/
def iordDev (i : ModuleIx) (p : Port) (s : State) : State :=
  match portOwner s.params p with
  | none => s.emit (.returned i openBus)
  | some d =>
    let answer := drawDeviceByte (callDevice d (.readIo i p) s)
    answer.2.emit (.returned i answer.1)

/-- R154. -/
def iowrDev (i : ModuleIx) (p : Port) (v : Byte) (s : State) : State :=
  match portOwner s.params p with
  | none => s
  | some d => callDevice d (.writeIo i p v) s

/-- R151: the byte comes from the mapped module's RAM, and INT is latched on the initiator. -/
def iordMapped (i : ModuleIx) (p : Port) (s : State) : State :=
  (s.setMod i { s.mod i with latchInt := true }).emit
    (.returned i (s.ramRead (mappedPa (s.mod s.cfg.mapped) p)))

/-- R152: the byte goes to the mapped module's RAM, and NMI is latched on the initiator. -/
def iowrMapped (i : ModuleIx) (p : Port) (v : Byte) (s : State) : State :=
  (s.ramWrite (mappedPa (s.mod s.cfg.mapped) p) v).setMod i { s.mod i with latchNmi := true }

/-- R140: the port-read dispatch of a CpuCore's call. -/
def readPort (i : ModuleIx) (p : Port) (s : State) : State :=
  if isCtrlPort s.params p then iordCtrl i p s
  else if isPagingPort s.params p then iordStatus i s
  else if isCfgPort s.params p then iordCfg i s
  else if isMappedAccess s.params i p then iordMapped i p s
  else iordDev i p s

/-- R141: the port-write dispatch of a CpuCore's call. -/
def writePort (i : ModuleIx) (p : Port) (v : Byte) (s : State) : State :=
  if isCtrlPort s.params p then iowrCtrl i p v s
  else if isPagingPort s.params p then iowrPaging i v s
  else if isCfgPort s.params p then iowrCfg i v s
  else if isMappedAccess s.params i p then iowrMapped i p v s
  else iowrDev i p v s

/-- IORD_CTRL (R142). -/
def execIordCtrl (i : ModuleIx) (p : Port) (s : State) : Host.Outcome State Fault Refusal :=
  .next (iordCtrl i p s)

/-- IOWR_CTRL (R143). -/
def execIowrCtrl (i : ModuleIx) (p : Port) (v : Byte) (s : State) :
    Host.Outcome State Fault Refusal :=
  .next (iowrCtrl i p v s)

/-- IORD_STATUS (R146): every paging port returns the same byte. -/
def execIordStatus (i : ModuleIx) (s : State) : Host.Outcome State Fault Refusal :=
  .next (iordStatus i s)

/-- IOWR_PAGING (R147). -/
def execIowrPaging (i : ModuleIx) (v : Byte) (s : State) : Host.Outcome State Fault Refusal :=
  .next (iowrPaging i v s)

/-- IORD_CFG (R148). -/
def execIordCfg (i : ModuleIx) (s : State) : Host.Outcome State Fault Refusal :=
  .next (iordCfg i s)

/-- IOWR_CFG (R149). -/
def execIowrCfg (i : ModuleIx) (v : Byte) (s : State) : Host.Outcome State Fault Refusal :=
  .next (iowrCfg i v s)

/-- IORD_DEV (R153). -/
def execIordDev (i : ModuleIx) (p : Port) (s : State) : Host.Outcome State Fault Refusal :=
  .next (iordDev i p s)

/-- IOWR_DEV (R154). -/
def execIowrDev (i : ModuleIx) (p : Port) (v : Byte) (s : State) :
    Host.Outcome State Fault Refusal :=
  .next (iowrDev i p v s)

/-- IORD_MAPPED (R151). -/
def execIordMapped (i : ModuleIx) (p : Port) (s : State) : Host.Outcome State Fault Refusal :=
  .next (iordMapped i p s)

/-- IOWR_MAPPED (R152). -/
def execIowrMapped (i : ModuleIx) (p : Port) (v : Byte) (s : State) :
    Host.Outcome State Fault Refusal :=
  .next (iowrMapped i p v s)

end Sys2Proof.Machine
end

