-- ==== Sys2Proof/Machine/BusMemory.lean ====
section
/-! DEFINITION. The memory transactions MRD, MFETCH and MWR (40_bus_memory.md R120 to R130). -/

namespace Sys2Proof.Machine

/-- R121. -/
def mrd (i : ModuleIx) (a : Addr) (s : State) : State :=
  if (s.mod i).rbc = 0 then decodedRead i a s else readback i s

/-- R122: the fetch address is recorded first; a readback fetch never checks the rendezvous. -/
def mfetch (i : ModuleIx) (a : Addr) (s : State) : State :=
  let t := s.setMod i { s.mod i with lastFetch := a }
  if (t.mod i).rbc = 0 then decodedRead i a (rendezvousCheck i a t) else readback i t

/-- R125, R68: WRDIS is tested before the window decode. -/
def mwr (i : ModuleIx) (a : Addr) (v : Byte) (s : State) : State :=
  if wrdis s.params (s.mod i) then s else decodedWrite i a v s

/-- MRD (R121). -/
def execMrd (i : ModuleIx) (a : Addr) (s : State) : Host.Outcome State Fault Refusal :=
  .next (mrd i a s)

/-- MFETCH (R122). -/
def execMfetch (i : ModuleIx) (a : Addr) (s : State) : Host.Outcome State Fault Refusal :=
  .next (mfetch i a s)

/-- MWR (R125). -/
def execMwr (i : ModuleIx) (a : Addr) (v : Byte) (s : State) : Host.Outcome State Fault Refusal :=
  .next (mwr i a v s)

end Sys2Proof.Machine
end

