-- ==== Sys2Proof/Machine/Scheduler.lean ====
section
/-! DEFINITION. The scheduler tick and the host commands (42_scheduler.md R170 to R192). -/

namespace Sys2Proof.Machine

/-- R170: one bus call of module `i`'s CpuCore, performed at once. -/
def issueCall (i : ModuleIx) (c : BusCall) (s : State) : State :=
  match c with
  | .readMemory a true => mfetch i a s
  | .readMemory a false => mrd i a s
  | .writeMemory a v => mwr i a v s
  | .readPort p => readPort i p s
  | .writePort p v => writePort i p v s
  | .requestInterruptDataLines => inta i s
  | .notifyReturnFromInterrupt => reti i s

/-- What a completed step of a CpuCore gives back: its new register state, its HALT output and its cycles. -/
structure StepEnd where
  regs : CpuRegs
  halt : Bool
  cycles : BitVec 32
  deriving DecidableEq, Repr

/-- R17, R170: a CpuCore's step, each call performed at once and in the order issued, and the step going on
as the byte `last` of its last call says. An InternalFault stops it at the call that raises it (R201). -/
def runCpuStep (i : ModuleIx) : CpuStep → Option Byte → State → Option StepEnd × State
  | .finish regs halt cycles, _, s => (some { regs := regs, halt := halt, cycles := cycles }, s)
  | .call c next, _, s =>
    let t := issueCall i c s
    if t.host.fault.isSome then (none, t) else runCpuStep i next (replyOf s t) t
  | .branch v same other, last, s =>
    if last = some v then runCpuStep i same last s else runCpuStep i other last s

/-- R172 to R174: the CpuCore contract. A RESET step and a WAIT step issue no bus transaction and have
fixed cycles and HALT output; a WAIT step leaves the register state as it was; with no effective input a
halted CPU stays halted; everything else is the CpuCore's. -/
def cpuAnswer (q : Params) (i : ModuleIx) (regs : CpuRegs) (sig : SignalWord) : CpuStep :=
  let own := coreStep q i regs sig
  match effectiveInput sig (coreAcceptsInt q i regs) with
  | .reset => .finish (regsWithoutCalls own) false q.resetStepCycles
  | .nmi => own
  | .int => own
  | .wait => .finish regs sig.halt q.waitStepCycles
  | .nothing => keepHalt sig.halt own

/-- What a tick accumulates over its slots (R176). -/
structure TickSums where
  haltEntry : Four Bool
  sum : BitVec 64
  c0 : BitVec 64
  deriving DecidableEq, Repr

/-- R176: nothing accumulated yet. -/
def noSums : TickSums where
  haltEntry := { q0 := false, q1 := false, q2 := false, q3 := false }
  sum := 0
  c0 := 0

/-- R176, R182: the slot up to the step: the module reset where RESET is 1, the latches consumed. -/
def openSlot (i : ModuleIx) (resetReq : Bool) (s : State) : State :=
  if resetSignal (s.mod i) resetReq then moduleReset i s else s

/-- R182: both latches are cleared once their requests are presented. -/
def consumeLatches (i : ModuleIx) (s : State) : State :=
  s.setMod i { s.mod i with latchNmi := false, latchInt := false }

/-- R176, R183: the end of a slot: postStep, the CPU's new register state, the halt edge and the HALT
output, the sums. -/
def closeSlot (i : ModuleIx) (e : StepEnd) (s : State) (acc : TickSums) : State × TickSums :=
  let t := { callAllDevices (.postStep i e.cycles) s with cpu := s.cpu.set i e.regs }
  (t.setMod i { t.mod i with haltOut := e.halt },
    { haltEntry := acc.haltEntry.set i (haltEdge (t.mod i).haltOut e.halt)
      sum := acc.sum + e.cycles.setWidth 64
      c0 := if i = 0 then e.cycles.setWidth 64 else acc.c0 })

/-- R176: the slot of module `i`. After an InternalFault the tick stops where it stands (R201). -/
def runSlot (i : ModuleIx) (resetReq intReq : Bool) (s : State) (acc : TickSums) :
    State × TickSums :=
  let opened := openSlot i resetReq s
  let sig := signalsOf opened.cfg i (opened.mod i) (resetSignal (s.mod i) resetReq) intReq
  let presented := (consumeLatches i opened).emit (.presented i sig)
  let done := runCpuStep i (cpuAnswer s.params i (s.cpu.get i) sig) none
    (callAllDevices (.preStep i) presented)
  match done.1 with
  | none => (done.2, acc)
  | some e => closeSlot i e done.2 acc

/-- R176, R189: the slots of the listed modules, in order, until an InternalFault. -/
def runSlots (resetReq intReq : Bool) : List ModuleIx → State → TickSums → State × TickSums
  | [], s, acc => (s, acc)
  | i :: rest, s, acc =>
    let done := runSlot i resetReq intReq s acc
    if done.1.host.fault.isSome then done else runSlots resetReq intReq rest done.1 done.2

/-- R176, R178: the start of a tick: the board reset where it is requested, and `TB.intDue` cleared. -/
def openTick (resetReq : Bool) (s : State) : State :=
  let t := if resetReq then boardReset s else s
  { t with tb := { t.tb with intDue := false } }

/-- R184, R190: the end of a completed tick: the timebase and the result record. -/
def closeTick (s : State) (acc : TickSums) : State :=
  let tb := advanceTimebase s.params.cyclesPerInt acc.sum acc.c0 s.tb
  { s with tb := tb }.emit
    (.tickResult { haltEntry := acc.haltEntry, cycles := acc.sum, intDue := tb.intDue })

/-- R176: one tick that is not refused; modules 0..3 in increasing index order. -/
def tick (resetReq intReq : Bool) (s : State) : State :=
  let done := runSlots resetReq intReq [0, 1, 2, 3] (openTick resetReq s) noSums
  if done.1.host.fault.isSome then done.1 else closeTick done.1 done.2

/-- HOST_TICK (R176): refused, with no state change, after an InternalFault or a cancellation. -/
def execHostTick (resetReq intReq : Bool) (s : State) : Host.Outcome State Fault Refusal :=
  match s.host.fault with
  | some r => .refused (.tickAfterFault r)
  | none =>
    if s.host.cancelRequested then .refused .tickAfterCancel else .next (tick resetReq intReq s)

/-- HOST_SNAPSHOT (R186): nothing is written; the copy is the answer. -/
def execHostSnapshot (s : State) : Host.Outcome State Fault Refusal :=
  .next (s.emit (.snapshot (snapshotOf s)))

/-- HOST_CANCEL (R187). -/
def execHostCancel (s : State) : Host.Outcome State Fault Refusal :=
  .next { s with host := { s.host with cancelRequested := true } }

end Sys2Proof.Machine
end

