-- ==== Sys2Proof/Machine/Dispatch.lean ====
section
/-! DEFINITION. One arm per instruction. -/

namespace Sys2Proof.Machine

def exec (i : Instr) (s : State) : Host.Outcome State Fault Refusal :=
  match i with
  | .mrd k a => Sys2Proof.Machine.execMrd k a s
  | .mfetch k a => Sys2Proof.Machine.execMfetch k a s
  | .mwr k a v => Sys2Proof.Machine.execMwr k a v s
  | .iordCtrl k p => Sys2Proof.Machine.execIordCtrl k p s
  | .iowrCtrl k p v => Sys2Proof.Machine.execIowrCtrl k p v s
  | .iordStatus k _ => Sys2Proof.Machine.execIordStatus k s
  | .iowrPaging k _ v => Sys2Proof.Machine.execIowrPaging k v s
  | .iordCfg k _ => Sys2Proof.Machine.execIordCfg k s
  | .iowrCfg k _ v => Sys2Proof.Machine.execIowrCfg k v s
  | .iordDev k p => Sys2Proof.Machine.execIordDev k p s
  | .iowrDev k p v => Sys2Proof.Machine.execIowrDev k p v s
  | .iordMapped k p => Sys2Proof.Machine.execIordMapped k p s
  | .iowrMapped k p v => Sys2Proof.Machine.execIowrMapped k p v s
  | .inta k => Sys2Proof.Machine.execInta k s
  | .reti k => Sys2Proof.Machine.execReti k s
  | .hostTick r n => Sys2Proof.Machine.execHostTick r n s
  | .hostSnapshot => Sys2Proof.Machine.execHostSnapshot s
  | .hostCancel => Sys2Proof.Machine.execHostCancel s

end Sys2Proof.Machine
end

