-- ==== Sys2Proof/Machine/Step.lean ====
section
/-! DEFINITION. One step: the next word offered to the block is decoded and performed (00_scope.md R16;
30_encoding.md R113; 20_memory.md R77). -/

namespace Sys2Proof.Machine

/-- The block performs the words offered to it, one a step, in the order offered: a host command, or a
bus call issued outside a tick. Inside a tick the CpuCores' calls are part of that one step. -/
def step (s : State) : Host.Outcome State Fault Refusal :=
  match takeWord s with
  | none => .refused .noWordOffered
  | some (w, t) =>
    match decode t.params w with
    | .ok i => exec i t
    | .error e => .refused (.invalidWord e)

/-- The state with the word of `nbits` bits `w` as the one word offered. -/
def State.withFetchWord (s : State) (nbits w : Nat) : State :=
  { s with pending := [offeredWord nbits w] }

end Sys2Proof.Machine
end

