-- ==== Sys2Proof/Safety.lean ====
section
/-! DEFINITION. What a safe state and a safe run are: the block's invariants (10_state.md R54) and the
condition under which the host's ticks run (42_scheduler.md R176); and what a run of a CpuCore's step is,
in the terms of the words (R170). -/

namespace Sys2Proof.Machine

/-- R12: the module whose CpuCore issues a transaction; a host command has none. -/
def initiator : Instr → Option ModuleIx
  | .mrd i _ => some i
  | .mfetch i _ => some i
  | .mwr i _ _ => some i
  | .iordCtrl i _ => some i
  | .iowrCtrl i _ _ => some i
  | .iordStatus i _ => some i
  | .iowrPaging i _ _ => some i
  | .iordCfg i _ => some i
  | .iowrCfg i _ _ => some i
  | .iordDev i _ => some i
  | .iowrDev i _ _ => some i
  | .iordMapped i _ => some i
  | .iowrMapped i _ _ => some i
  | .inta i => some i
  | .reti i => some i
  | .hostTick _ _ => none
  | .hostSnapshot => none
  | .hostCancel => none

/-- The module an event presents inputs to, where it does (R189). -/
def presentedTo : Event → Option ModuleIx
  | .returned _ _ => none
  | .presented i _ => some i
  | .device _ _ => none
  | .tickResult _ => none
  | .snapshot _ => none

/-- The step issues no bus call. -/
def issuesNoCall : CpuStep → Bool
  | .finish _ _ _ => true
  | .call _ _ => false
  | .branch _ same other => issuesNoCall same && issuesNoCall other

/-- The transaction of initiator `i` that leads from `s` to `t` answered `b`: the byte it returned, or none. -/
def Answered (i : ModuleIx) (s t : State) (b : Option Byte) : Prop :=
  ∃ given, t.out = s.out ++ given ∧ ∀ v, b = some v ↔ Event.returned i v ∈ given

/-- R170: module `i`'s CpuCore, with `last` the answer of its last call, performs `step` from `s` without a
fault: it issues `calls` in this order, each performed as the word that spells it, goes on as their
answers say, and ends as `e` in `u`. -/
inductive StepRun (i : ModuleIx) :
    CpuStep → Option Byte → State → List BusCall → StepEnd → State → Prop where
  | finish (regs : CpuRegs) (halt : Bool) (cycles : BitVec 32) (last : Option Byte) (s : State) :
      StepRun i (.finish regs halt cycles) last s [] { regs := regs, halt := halt, cycles := cycles } s
  | call (c : BusCall) (next : CpuStep) (last answer : Option Byte) (s t u : State) (ins : Instr)
      (calls : List BusCall) (e : StepEnd) (word : decode s.params (encodeCall i c) = .ok ins)
      (performed : exec ins s = .next t) (noFault : t.host.fault = none)
      (answered : Answered i s t answer) (rest : StepRun i next answer t calls e u) :
      StepRun i (.call c next) last s (c :: calls) e u
  | same (v : Byte) (same other : CpuStep) (s u : State) (calls : List BusCall) (e : StepEnd)
      (rest : StepRun i same (some v) s calls e u) :
      StepRun i (.branch v same other) (some v) s calls e u
  | other (v : Byte) (same other : CpuStep) (last : Option Byte) (s u : State)
      (calls : List BusCall) (e : StepEnd) (differs : last ≠ some v)
      (rest : StepRun i other last s calls e u) :
      StepRun i (.branch v same other) last s calls e u

/-- R62 in numbers: the address lies in a window that shows a ROM image. -/
def inRomWindow (m : ModuleState) (a : Addr) : Bool :=
  decide (a.toNat < 0x4000) && !m.paging.getLsbD 6

/-- R62 in numbers: the RAM bank of an address. -/
def bankNumber (m : ModuleState) (a : Addr) : Nat :=
  if a.toNat < 0x4000 then 0
  else if a.toNat < 0x8000 then 5
  else if a.toNat < 0xC000 then 2
  else m.paging.toNat % 8

/-- R64 in numbers: the untruncated physical offset of an address. -/
def offsetNumber (m : ModuleState) (a : Addr) : Nat :=
  (m.r.get 0).toNat % 8 * 65536 + bankNumber m a * 16384 + a.toNat % 16384

/-- R107 in numbers: the mapped-module offset of a port. -/
def mappedNumber (m : ModuleState) (p : Port) : Nat := (m.r.get 0).toNat % 8 * 65536 + p.toNat

/-- The arrays are in canonical form and inside their sizes (R48, R49). -/
def arraysWf (s : State) : Bool :=
  s.ram.wf && s.ram.below ramSize && s.rom0.wf && s.rom0.below romSize && s.rom1.wf
    && s.rom1.below romSize

/-- A TICK is not refused (R176). -/
def ticksRun (s : State) : Bool := s.host.fault.isNone && !s.host.cancelRequested

/-- Only an overflow fault under RAM_OVERFLOW = Fault is ever recorded (R201). -/
def faultLegal (s : State) : Bool :=
  match s.host.fault with
  | none => true
  | some (.ramOverflow _ _ off) => s.params.ramOverflow == .fault && decide (ramSize ≤ off)
  | some (.decodeOutOfWindow _ _) => false

end Sys2Proof.Machine
end

