-- ==== Sys2Proof/Certificates/Slice0/Obligations.lean ====
section
/-! DEFINITION. The statements for the provers, from the numbered rules of spec/. A statement about every
state holds for every value of the parameters of 00_scope.md R7, which the state holds; where a rule
is written for the defaults, the statement names the default as a hypothesis. The decisions D1 to D41
of the spec are part of its rules; a rule the spec marks '[derived: ...]' is its inference, and the
docstring says so where a statement rests on one. -/

open Sys2Proof Sys2Proof.Machine

/-! Encoding and decoding (30_encoding.md). -/

/-- R90 to R93, R112: no bit of an encoding is dropped. -/
def Obligations.DecodeEncodeAgree : Prop :=
  ∀ (q : Params) (i : Instr), wfInstr q i = true → decode q (encode i) = .ok i

/-- R113, an inference of the spec from R112: "every 32-bit word is either exactly one row of rule R112 or
`Invalid`". -/
def Obligations.EveryWordIsOneRowOrInvalid : Prop :=
  ∀ (q : Params) (w : Btw),
    (∃ i, decode q w = .ok i ∧ wfInstr q i = true ∧ encode i = w ∧
      ∀ j, wfInstr q j = true → encode j = w → j = i) ∨
    (∃ e, decode q w = .error e ∧ ∀ j, wfInstr q j = true → encode j ≠ w)

/-- R94: which words are `Invalid`, bit field by bit field, and that a step refuses exactly them. -/
def Obligations.StepRefusesExactlyInvalidWords : Prop :=
  ∀ (s : State) (w : Btw) (rest : List Btw), s.pending = w :: rest →
    ((∃ e, step s = .refused (.invalidWord e)) ↔
      w.extractLsb' 24 3 ≠ 0 ∨
      ((w.extractLsb' 27 3 = 0 ∨ w.extractLsb' 27 3 = 1 ∨ w.extractLsb' 27 3 = 3) ∧
        w.extractLsb' 0 8 ≠ 0) ∨
      ((w.extractLsb' 27 3 = 5 ∨ w.extractLsb' 27 3 = 6) ∧ w.extractLsb' 0 24 ≠ 0) ∨
      (w.extractLsb' 27 3 = 7 ∧
        (w.extractLsb' 30 2 ≠ 0 ∨ w.extractLsb' 8 8 ≠ 0 ∨ 3 ≤ (w.extractLsb' 16 8).toNat ∨
          (w.extractLsb' 16 8 = 0 ∧ w.extractLsb' 2 6 ≠ 0) ∨
          (w.extractLsb' 16 8 ≠ 0 ∧ w.extractLsb' 0 8 ≠ 0))))

/-- Words written out from the encodings of R112, one of each family, under the default parameters. -/
def Obligations.SpecWordsDecode : Prop :=
  decode defaultParams 0x88800000 = .ok (.mfetch 2 0x8000) ∧
  decode defaultParams 0xD0C0005A = .ok (.mwr 3 0xC000 0x5A) ∧
  decode defaultParams 0x6010FF12 = .ok (.iowrCtrl 1 0x10FF 0x12) ∧
  decode defaultParams 0x987FFD00 = .ok (.iordStatus 2 0x7FFD) ∧
  decode defaultParams 0xE04FFF08 = .ok (.iowrCfg 3 0x4FFF 0x08) ∧
  decode defaultParams 0x1800FE00 = .ok (.iordDev 0 0x00FE) ∧
  decode defaultParams 0x6012335A = .ok (.iowrMapped 1 0x1233 0x5A) ∧
  decode defaultParams 0xE8000000 = .ok (.inta 3) ∧
  decode defaultParams 0x38000003 = .ok (.hostTick true true) ∧
  decode defaultParams 0x38020000 = .ok .hostCancel

/-- A step takes the next word and runs the instruction it decodes to, with nothing given out before. The
queue of offered words and the list `out` are the model's choice (log entries 3 and 4). -/
def Obligations.StepRunsTheDecodedWord : Prop :=
  ∀ (s : State) (w : Btw) (rest : List Btw) (i : Instr),
    s.pending = w :: rest → decode s.params w = .ok i → wfInstr s.params i = true →
    step s = exec i { s with pending := rest, out := [] }

/-- R170, R140, R141: a CpuCore's bus call inside a tick does what the word that spells it does. -/
def Obligations.TickCallsAreTheirWords : Prop :=
  ∀ (s : State) (i : ModuleIx) (c : BusCall), ∃ ins,
    decode s.params (encodeCall i c) = .ok ins ∧ exec ins s = .next (issueCall i c s)

/-! Memory transactions (20_memory.md, 40_bus_memory.md). -/

/-- R61 to R65: the memory-bank selector in numbers. -/
def Obligations.SelectorFollowsWindowAndBank : Prop :=
  ∀ (q : Params) (m : ModuleState) (a : Addr),
    memTarget q m a =
      if inRomWindow m a = true then .rom (m.paging.getLsbD 4) (BitVec.ofNat 14 a.toNat)
      else if 2 ^ 19 ≤ offsetNumber m a ∧ q.ramOverflow = .fault then .overflow (offsetNumber m a)
      else .ram (BitVec.ofNat 19 (offsetNumber m a))

/-- R65, R84: the selector overflows exactly under RAM_OVERFLOW = Fault, outside a ROM window, where BANKOFS
is 7 and the bank is 4 to 7; a RAM byte it gives lies at the untruncated offset, or 2^19 below it where
BANKOFS is 7 and the bank is 4 to 7. -/
def Obligations.OverflowExactlyAtBankOfsSeven : Prop :=
  ∀ (q : Params) (m : ModuleState) (a : Addr),
    (∀ off, memTarget q m a = .overflow off ↔
      q.ramOverflow = .fault ∧ inRomWindow m a = false ∧ (m.r.get 0).toNat % 8 = 7 ∧
        4 ≤ bankNumber m a ∧ off = 7 * 65536 + bankNumber m a * 16384 + a.toNat % 16384) ∧
    (∀ pa, memTarget q m a = .ram pa →
      pa.toNat + (if (m.r.get 0).toNat % 8 = 7 ∧ 4 ≤ bankNumber m a then 2 ^ 19 else 0) =
        (m.r.get 0).toNat % 8 * 65536 + bankNumber m a * 16384 + a.toNat % 16384)

/-- R120, R121, R122: a memory read during the handshake returns register 4 − rbc, which is R1, R2 or
R3, and counts down; a fetch also records its address. Nothing else changes. -/
def Obligations.ReadbackReadsReturnMailboxes : Prop :=
  ∀ (s : State) (i : ModuleIx) (a : Addr), (s.mod i).rbc ≠ 0 →
    ∃ (t u : State) (r : RegIx), r.val + (s.mod i).rbc.val = 4 ∧
      exec (.mrd i a) s = .next t ∧ exec (.mfetch i a) s = .next u ∧
      t = { s with mods := t.mods, out := s.out ++ [.returned i ((s.mod i).r.get r)] } ∧
      u = { s with mods := u.mods, out := s.out ++ [.returned i ((s.mod i).r.get r)] } ∧
      (t.mod i).rbc.val + 1 = (s.mod i).rbc.val ∧
      t.mod i = { s.mod i with rbc := (t.mod i).rbc } ∧
      u.mod i = { s.mod i with rbc := (t.mod i).rbc, lastFetch := a } ∧
      ∀ k, k ≠ i → t.mod k = s.mod k ∧ u.mod k = s.mod k

/-- R120: "Starting from the reset value rbc = 3, three successive reads return R[1], R[2], R[3], and rbc
ends at 0", whatever the kinds and the addresses of the reads. -/
def Obligations.HandshakeShowsR1R2R3 : Prop :=
  ∀ (s : State) (i : ModuleIx) (x y z : Instr), (s.mod i).rbc = 3 →
    (∀ w, w = x ∨ w = y ∨ w = z → ∃ a, w = .mrd i a ∨ w = .mfetch i a) →
    ∃ t u v, exec x s = .next t ∧ exec y t = .next u ∧ exec z u = .next v ∧
      v.out = s.out ++ [.returned i ((s.mod i).r.get 1), .returned i ((s.mod i).r.get 2),
        .returned i ((s.mod i).r.get 3)] ∧
      (v.mod i).rbc = 0 ∧ v = { s with mods := v.mods, out := v.out } ∧
      ∀ k, k ≠ i → v.mod k = s.mod k

/-- R63: a read in a ROM window returns the byte of the image ROMSEL selects; R0 plays no part. -/
def Obligations.RomWindowReads : Prop :=
  ∀ (s : State) (i : ModuleIx) (a : Addr), (s.mod i).rbc = 0 → inRomWindow (s.mod i) a = true →
    exec (.mrd i a) s = .next { s with out := s.out ++ [.returned i
      (if (s.mod i).paging.getLsbD 4 then s.rom1.read (a.toNat % 16384)
        else s.rom0.read (a.toNat % 16384))] } ∧
    ∃ u, exec (.mfetch i a) s = .next u ∧ u = { s with mods := u.mods, out := s.out ++ [.returned i
      (if (s.mod i).paging.getLsbD 4 then s.rom1.read (a.toNat % 16384)
        else s.rom0.read (a.toNat % 16384))] }

/-- R64, R121, R124: a read elsewhere returns the RAM byte at the physical offset, modulo 2^19 under
RAM_OVERFLOW = Wrap, and changes nothing. -/
def Obligations.RamReads : Prop :=
  ∀ (s : State) (i : ModuleIx) (a : Addr), (s.mod i).rbc = 0 → inRomWindow (s.mod i) a = false →
    (s.params.ramOverflow = .wrap ∨ offsetNumber (s.mod i) a < 2 ^ 19) →
    exec (.mrd i a) s = .next
      { s with out := s.out ++ [.returned i (s.ram.read (offsetNumber (s.mod i) a % 2 ^ 19))] }

/-- R122: an opcode fetch after the handshake does what the data read does, records its address and may
set the initiator's wait; it changes nothing else. -/
def Obligations.FetchIsReadWithRecord : Prop :=
  ∀ (s : State) (i : ModuleIx) (a : Addr), (s.mod i).rbc = 0 →
    ∃ t u, exec (.mrd i a) s = .next t ∧ exec (.mfetch i a) s = .next u ∧
      t = { s with host := t.host, out := t.out } ∧ u = { t with mods := u.mods } ∧
      u.mod i = { s.mod i with lastFetch := a, waitAsserted := (u.mod i).waitAsserted } ∧
      ∀ k, k ≠ i → u.mod k = s.mod k

/-- R123: when a fetch asserts the rendezvous wait, and that nothing but a fetch does. -/
def Obligations.RendezvousDetection : Prop :=
  ∀ (s : State) (i : ModuleIx) (a : Addr),
    ((s.mod i).rbc = 0 → ∃ u, exec (.mfetch i a) s = .next u ∧
      ((u.mod i).waitAsserted = true ↔ (s.mod i).waitAsserted = true ∨
        (s.cfg.lock = false ∧ (s.mod i).rendezvousArmed = true ∧
          a.toNat = ((s.mod i).r.get 3).toNat * 256 + ((s.mod i).r.get 2).toNat))) ∧
    ((s.mod i).rbc ≠ 0 → ∃ u, exec (.mfetch i a) s = .next u ∧
      (u.mod i).waitAsserted = (s.mod i).waitAsserted) ∧
    (∀ ins t k, initiator ins = some i → (∀ b, ins ≠ .mfetch i b) → exec ins s = .next t →
      (t.mod k).waitAsserted = true → (s.mod k).waitAsserted = true)

/-- R68: while WRDIS is 1, a write of the module changes nothing, in every window. -/
def Obligations.WriteDisableSuppressesWrites : Prop :=
  ∀ (s : State) (i : ModuleIx) (a : Addr) (v : Byte), s.params.r0Layout.wrdis = 3 →
    ((s.mod i).r.get 0).getLsbD 3 = true → exec (.mwr i a v) s = .next s

/-- R67: a write to a ROM window changes nothing. -/
def Obligations.RomWindowWritesIgnored : Prop :=
  ∀ (s : State) (i : ModuleIx) (a : Addr) (v : Byte), inRomWindow (s.mod i) a = true →
    exec (.mwr i a v) s = .next s

/-- R125: any other write stores its byte at the address the selector gives and changes no other byte and
nothing else. -/
def Obligations.RamWriteStoresOneByte : Prop :=
  ∀ (s : State) (i : ModuleIx) (a : Addr) (v : Byte) (pa : PhysAddr), s.ram.wf = true →
    wrdis s.params (s.mod i) = false → memTarget s.params (s.mod i) a = .ram pa →
    ∃ t, exec (.mwr i a v) s = .next t ∧ t = { s with ram := t.ram } ∧
      ∀ x, t.ramRead x = if x = pa then v else s.ramRead x

/-- R65, R201: under RAM_OVERFLOW = Fault an overflowing access records the fault with its values; the
transaction returns nothing. A fetch has recorded its address before. That the fault is a next state, and
not a stop of the step, is the model's reading (log entry 13). -/
def Obligations.OverflowRecordsTheFault : Prop :=
  ∀ (s : State) (i : ModuleIx) (a : Addr) (v : Byte), s.params.ramOverflow = .fault →
    inRomWindow (s.mod i) a = false → 2 ^ 19 ≤ offsetNumber (s.mod i) a →
    (wrdis s.params (s.mod i) = false → exec (.mwr i a v) s = .next
      { s with host := { s.host with fault := some (.ramOverflow i a (offsetNumber (s.mod i) a)) } }) ∧
    ((s.mod i).rbc = 0 → exec (.mrd i a) s = .next
      { s with host := { s.host with fault := some (.ramOverflow i a (offsetNumber (s.mod i) a)) } } ∧
      ∃ u, exec (.mfetch i a) s = .next u ∧ (u.mod i).lastFetch = a ∧ u.out = s.out ∧
        u.host = { s.host with fault := some (.ramOverflow i a (offsetNumber (s.mod i) a)) })

/-- R77, R81: a byte a module writes is what any module next reads at an address with the same physical
offset. -/
def Obligations.StoreIsSeenByTheNextRead : Prop :=
  ∀ (s u : State) (i j : ModuleIx) (a b : Addr) (v : Byte) (pa : PhysAddr), s.ram.wf = true →
    wrdis s.params (s.mod i) = false → memTarget s.params (s.mod i) a = .ram pa →
    (s.mod j).rbc = 0 → memTarget s.params (s.mod j) b = .ram pa →
    exec (.mwr i a v) s = .next u →
    exec (.mrd j b) u = .next { u with out := u.out ++ [.returned j v] } ∧
    ∃ w, exec (.mfetch j b) u = .next w ∧ w.out = u.out ++ [.returned j v]

/-! Port transactions (41_bus_io.md). -/

/-- R142: a control-register read is not gated and changes nothing; the ports are those of R96. -/
def Obligations.ControlReadReturnsRegister : Prop :=
  ∀ (s : State) (i m : ModuleIx) (r : RegIx), s.params.ctrlPortForm = .targetModule →
    exec (.iordCtrl i (BitVec.ofNat 16 (m.val * 4096 + r.val * 256 + 255))) s =
      .next { s with out := s.out ++ [.returned i ((s.mod m).r.get r)] }

/-- R97: in the literal form the four ports reach the initiator's own registers. -/
def Obligations.LiteralControlPortsReachOwnRegisters : Prop :=
  ∀ (s : State) (i : ModuleIx) (r : RegIx) (v : Byte), s.params.ctrlPortForm = .literal →
    exec (.iordCtrl i (BitVec.ofNat 16 (r.val * 4096 + r.val * 256 + 255))) s =
      .next { s with out := s.out ++ [.returned i ((s.mod i).r.get r)] } ∧
    (s.cfg.lock = false →
      ∃ t, exec (.iowrCtrl i (BitVec.ofNat 16 (r.val * 4096 + r.val * 256 + 255)) v) s = .next t ∧
        (t.mod i).r = (s.mod i).r.set r v ∧ t = { s with mods := t.mods } ∧
        ∀ k, k ≠ i → t.mod k = s.mod k)

/-- R144, R145: an accepted control-register write stores the byte, latches the requests of an R0 write,
arms on an R2 or R3 write and releases the wait under AnyCtrlWrite; it changes nothing else. -/
def Obligations.AcceptedControlWrite : Prop :=
  ∀ (s : State) (i m : ModuleIx) (r : RegIx) (v : Byte), s.params.ctrlPortForm = .targetModule →
    s.params.r0Layout = r0LayoutDefault → s.cfg.lock = false → i ≤ m →
    ∃ t, exec (.iowrCtrl i (BitVec.ofNat 16 (m.val * 4096 + r.val * 256 + 255)) v) s = .next t ∧
      t = { s with mods := t.mods } ∧ (∀ k, k ≠ m → t.mod k = s.mod k) ∧
      t.mod m = { s.mod m with
        r := (s.mod m).r.set r v
        latchReset := (s.mod m).latchReset || (r == 0 && v.getLsbD 4)
        latchNmi := (s.mod m).latchNmi || (r == 0 && v.getLsbD 5)
        latchInt := (s.mod m).latchInt || (r == 0 && v.getLsbD 6)
        rendezvousArmed := (s.mod m).rendezvousArmed || r == 2 || r == 3
        waitAsserted := s.params.waitRelease == .resetOnly && (s.mod m).waitAsserted }

/-- R143, and R215, the table the spec derives from it. A write is accepted when LOCK is 0 and the writer's
index is at most the target's; every other write changes nothing at all. -/
def Obligations.ControlWriteRights : Prop :=
  ∀ (s : State) (i m : ModuleIx) (r : RegIx) (v : Byte), s.params.ctrlPortForm = .targetModule →
    ∃ t, exec (.iowrCtrl i (BitVec.ofNat 16 (m.val * 4096 + r.val * 256 + 255)) v) s = .next t ∧
      (s.cfg.lock = false → i.val ≤ m.val → (t.mod m).r.get r = v) ∧
      (s.cfg.lock = true ∨ m.val < i.val → t = s)

/-- R38, R146: a status read returns one byte and changes nothing; under the default STATUS_MAP the byte is
HALT, WAIT and the six address bits in ascending order. -/
def Obligations.StatusByteBits : Prop :=
  ∀ (s : State) (i : ModuleIx) (p : Port),
    ∃ v : Byte, exec (.iordStatus i p) s = .next { s with out := s.out ++ [.returned i v] } ∧
      (s.params.statusMap = statusMapDefault →
        v.getLsbD 0 = (s.mod i).haltOut ∧ v.getLsbD 1 = (s.mod i).waitAsserted ∧
        v.getLsbD 2 = (s.mod i).lastFetch.getLsbD 1 ∧ v.getLsbD 3 = (s.mod i).lastFetch.getLsbD 2 ∧
        v.getLsbD 4 = (s.mod i).lastFetch.getLsbD 8 ∧ v.getLsbD 5 = (s.mod i).lastFetch.getLsbD 12 ∧
        v.getLsbD 6 = (s.mod i).lastFetch.getLsbD 14 ∧
        v.getLsbD 7 = (s.mod i).lastFetch.getLsbD 15)

/-- R147, R103: a paging write stores bits 6:0 while the paging lock is clear, and nothing while it is set. -/
def Obligations.PagingWrite : Prop :=
  ∀ (s : State) (i : ModuleIx) (p : Port) (v : Byte),
    ((s.mod i).paging.getLsbD 5 = false → ∃ t, exec (.iowrPaging i p v) s = .next t ∧
      t = { s with mods := t.mods } ∧ (∀ k, k ≠ i → t.mod k = s.mod k) ∧
      t.mod i = { s.mod i with paging := (t.mod i).paging } ∧
      (t.mod i).paging.toNat = v.toNat % 128) ∧
    ((s.mod i).paging.getLsbD 5 = true → exec (.iowrPaging i p v) s = .next s)

/-- R104, R149: what module 0's config write stores, under the default CFG_LAYOUT; and that the config
write of any other module changes nothing. -/
def Obligations.ConfigWrite : Prop :=
  ∀ (s : State) (i : ModuleIx) (p : Port) (v : Byte),
    ∃ t, exec (.iowrCfg i p v) s = .next t ∧ t = { s with cfg := t.cfg } ∧
      (i ≠ 0 → t = s) ∧
      (i = 0 → s.params.cfgLayout = cfgLayoutDefault →
        t.cfg.mapped.val = v.toNat % 4 ∧ t.cfg.ioblk = v.getLsbD 2 ∧
        t.cfg.slvwait = v.getLsbD 3 ∧ t.cfg.lock = v.getLsbD 7)

/-- R104, R148: a config read returns one byte and changes nothing; under the default CFG_LAYOUT the byte
is LOCK, three zero bits, SLVWAIT, IOBLK, MAPPED. -/
def Obligations.ConfigRead : Prop :=
  ∀ (s : State) (i : ModuleIx) (p : Port),
    ∃ v : Byte, exec (.iordCfg i p) s = .next { s with out := s.out ++ [.returned i v] } ∧
      (s.params.cfgLayout = cfgLayoutDefault →
        v.toNat = s.cfg.mapped.val + s.cfg.ioblk.toNat * 4 + s.cfg.slvwait.toNat * 8 +
          s.cfg.lock.toNat * 128)

/-- R43: a config byte that module 0 writes is read back without its reserved bits 6:4. -/
def Obligations.ConfigReadBack : Prop :=
  ∀ (s t : State) (i : ModuleIx) (p : Port) (v : Byte), s.params.cfgLayout = cfgLayoutDefault →
    exec (.iowrCfg 0 p v) s = .next t →
    exec (.iordCfg i p) t = .next { t with out := t.out ++ [.returned i (v &&& 0x8F)] }

/-- R153, R158: a device-port read returns 0xFF where no started device claims the port; where one does,
exactly one started device is called, and the byte is whatever it answers: a free value, log entry 12.
Which device owns a port that several claim is the model's choice (log entry 11). -/
def Obligations.DeviceRead : Prop :=
  ∀ (s : State) (i : ModuleIx) (p : Port),
    ((∀ d ∈ s.params.devices, d.started = true → ∀ c ∈ d.claims, p &&& c.mask ≠ c.value) →
      exec (.iordDev i p) s = .next { s with out := s.out ++ [.returned i 0xFF] }) ∧
    ((∃ d ∈ s.params.devices, d.started = true ∧ ∃ c ∈ d.claims, p &&& c.mask = c.value) →
      ∃ n d v, s.params.devices[n]? = some d ∧ d.started = true ∧
        (∃ c ∈ d.claims, p &&& c.mask = c.value) ∧
        exec (.iordDev i p) s = .next { s with
          draws := s.draws + 1
          out := s.out ++ [.device n (.readIo i p), .returned i v] })

/-- R154, R158: a device-port write calls the one device that owns the port, or is dropped; it changes no
state of the block. -/
def Obligations.DeviceWrite : Prop :=
  ∀ (s : State) (i : ModuleIx) (p : Port) (v : Byte),
    ((∀ d ∈ s.params.devices, d.started = true → ∀ c ∈ d.claims, p &&& c.mask ≠ c.value) →
      exec (.iowrDev i p v) s = .next s) ∧
    ((∃ d ∈ s.params.devices, d.started = true ∧ ∃ c ∈ d.claims, p &&& c.mask = c.value) →
      ∃ n d, s.params.devices[n]? = some d ∧ d.started = true ∧
        (∃ c ∈ d.claims, p &&& c.mask = c.value) ∧
        exec (.iowrDev i p v) s = .next { s with out := s.out ++ [.device n (.writeIo i p v)] })

/-- R151, R107: a mapped read returns the mapped module's RAM byte and latches INT on the initiator. -/
def Obligations.MappedRead : Prop :=
  ∀ (s : State) (i : ModuleIx) (p : Port),
    ∃ t, exec (.iordMapped i p) s = .next t ∧
      t = { s with
        mods := t.mods
        out := s.out ++ [.returned i (s.ram.read (mappedNumber (s.mod s.cfg.mapped) p))] } ∧
      t.mod i = { s.mod i with latchInt := true } ∧ ∀ k, k ≠ i → t.mod k = s.mod k

/-- R152, R107: a mapped write stores its byte in the mapped module's RAM, whatever that module's state,
and latches NMI on the initiator. -/
def Obligations.MappedWrite : Prop :=
  ∀ (s : State) (i : ModuleIx) (p : Port) (v : Byte), s.ram.wf = true →
    ∃ t, exec (.iowrMapped i p v) s = .next t ∧
      t = { s with mods := t.mods, ram := t.ram } ∧
      t.mod i = { s.mod i with latchNmi := true } ∧ (∀ k, k ≠ i → t.mod k = s.mod k) ∧
      (mappedPa (s.mod s.cfg.mapped) p).toNat = mappedNumber (s.mod s.cfg.mapped) p ∧
      ∀ x, t.ramRead x = if x = mappedPa (s.mod s.cfg.mapped) p then v else s.ramRead x

/-- R85: a mapped write is read back by the mapped module at every address whose physical offset is the
mapped offset. -/
def Obligations.MappedWriteSeenByTarget : Prop :=
  ∀ (s u : State) (i : ModuleIx) (p : Port) (v : Byte) (a : Addr), s.ram.wf = true →
    (s.mod s.cfg.mapped).rbc = 0 → inRomWindow (s.mod s.cfg.mapped) a = false →
    offsetNumber (s.mod s.cfg.mapped) a = mappedNumber (s.mod s.cfg.mapped) p →
    exec (.iowrMapped i p v) s = .next u →
    exec (.mrd s.cfg.mapped a) u = .next { u with out := u.out ++ [.returned s.cfg.mapped v] }

/-- R155, R156, R209: INTA returns 0xFF and clears no latch; RETI changes nothing. -/
def Obligations.InterruptTransactions : Prop :=
  ∀ (s : State) (i : ModuleIx),
    exec (.inta i) s = .next { s with out := s.out ++ [.returned i 0xFF] } ∧
    exec (.reti i) s = .next s

/-! What no transaction does. -/

/-- R143, R150, R214: no transaction of a module changes anything of a module with a lower index. -/
def Obligations.LowerIndexedModulesUntouched : Prop :=
  ∀ (s t : State) (ins : Instr) (i k : ModuleIx), initiator ins = some i → exec ins s = .next t →
    k < i → t.mod k = s.mod k

/-- R126, R30, R31, R32, R36: no transaction changes another module's paging register, fetch record or
readback counter, nor any module's HALT output. -/
def Obligations.PagingAndFetchStateAreOwn : Prop :=
  ∀ (s t : State) (ins : Instr) (i k : ModuleIx), initiator ins = some i → exec ins s = .next t →
    (t.mod k).haltOut = (s.mod k).haltOut ∧
    (k ≠ i → (t.mod k).paging = (s.mod k).paging ∧ (t.mod k).lastFetch = (s.mod k).lastFetch ∧
      (t.mod k).rbc = (s.mod k).rbc)

/-- R40, R203: while LOCK is 1 no transaction changes a control register, sets a reset latch, arms a
rendezvous, or asserts or releases a wait. -/
def Obligations.LockFreezesControlState : Prop :=
  ∀ (s t : State) (ins : Instr) (i k : ModuleIx), s.cfg.lock = true → initiator ins = some i →
    exec ins s = .next t →
    (t.mod k).r = (s.mod k).r ∧ (t.mod k).latchReset = (s.mod k).latchReset ∧
    (t.mod k).rendezvousArmed = (s.mod k).rendezvousArmed ∧
    (t.mod k).waitAsserted = (s.mod k).waitAsserted

/-- R28, R54: a control register changes only by a control-register write of a module whose index is at
most the target's, while LOCK is 0. -/
def Obligations.ControlRegistersChangeByRightOnly : Prop :=
  ∀ (s t : State) (ins : Instr) (i k : ModuleIx), initiator ins = some i → exec ins s = .next t →
    (t.mod k).r ≠ (s.mod k).r →
    s.cfg.lock = false ∧ i ≤ k ∧ ∃ p v, ins = .iowrCtrl i p v

/-- R212 (timebase), R49 and R67 (ROM), R37 (CPU registers), R47 (cancel mark): no transaction changes them;
R149, R211: only module 0 changes the configuration; R48, R125, R152: only a memory write and a mapped
write change RAM. That no transaction changes the parameters or the offered words is the model's choice
(log entries 2 and 3). -/
def Obligations.TransactionFrame : Prop :=
  ∀ (s t : State) (ins : Instr) (i : ModuleIx), initiator ins = some i → exec ins s = .next t →
    t = { s with
      mods := t.mods, cfg := t.cfg, host := t.host, ram := t.ram, draws := t.draws, out := t.out } ∧
    t.host.cancelRequested = s.host.cancelRequested ∧
    (i ≠ 0 → t.cfg = s.cfg) ∧
    ((∀ a v, ins ≠ .mwr i a v) → (∀ p v, ins ≠ .iowrMapped i p v) → t.ram = s.ram)

/-! The tick and the host commands (42_scheduler.md, 70_reset_and_hazards.md). -/

/-- R176, R187: a TICK after an InternalFault or after a cancellation is refused. -/
def Obligations.TickRefusedAfterFaultOrCancel : Prop :=
  ∀ (s : State) (r n : Bool),
    (∀ f, s.host.fault = some f → exec (.hostTick r n) s = .refused (.tickAfterFault f)) ∧
    (s.host.fault = none → s.host.cancelRequested = true →
      exec (.hostTick r n) s = .refused .tickAfterCancel)

/-- R176, R201: any other TICK runs to a next state. A tick that ends without a fault advances the total by
the cycles it reports and reports intDue; a tick that a fault stops leaves the counters alone (log
entry 17). R49, R67 (ROM) and R47, R187 (cancel mark): no tick changes them. That no tick changes the
parameters or the offered words is the model's choice (log entries 2 and 3). -/
def Obligations.TickCompletes : Prop :=
  ∀ (s : State) (r n : Bool), s.host.fault = none → s.host.cancelRequested = false →
    ∃ t, exec (.hostTick r n) s = .next t ∧
      t = { s with
        mods := t.mods, cfg := t.cfg, tb := t.tb, host := t.host, ram := t.ram
        cpu := t.cpu, draws := t.draws, out := t.out } ∧
      t.host.cancelRequested = false ∧
      (t.host.fault = none → ∃ res, t.out.getLast? = some (.tickResult res) ∧
        t.tb.cycleTotal = s.tb.cycleTotal + res.cycles ∧ t.tb.intDue = res.intDue) ∧
      (t.host.fault ≠ none → t.tb = { s.tb with intDue := false })

/-- R176, R178, R184, R189, R190: a tick that no fault stops is the slots of modules 0, 1, 2, 3 in that order,
each once and each from the state the one before leaves, then the advance of the timebase and the result
record. A tick that a fault stops runs only the first of these slots, up to the fault (R201). -/
def Obligations.TickStepsEachModuleOnceInOrder : Prop :=
  ∀ (s t : State) (r n : Bool), exec (.hostTick r n) s = .next t →
    (t.host.fault ≠ none →
      (t.out.drop s.out.length).filterMap presentedTo <+: [0, 1, 2, 3]) ∧
    (t.host.fault = none →
      (t.out.drop s.out.length).filterMap presentedTo = [0, 1, 2, 3] ∧
      ∃ (s0 s1 s2 s3 s4 : State) (a1 a2 a3 a4 : TickSums),
        (r = false → s0 = { s with tb := { s.tb with intDue := false } }) ∧
        (r = true → s0 = { s with
          cfg := { mapped := 0, ioblk := false, slvwait := false, lock := false }
          tb := { s.tb with intDue := false }
          out := s.out ++ (startedDevices s.params).map fun d => .device d .reset }) ∧
        runSlot 0 r n s0 noSums = (s1, a1) ∧ runSlot 1 r n s1 a1 = (s2, a2) ∧
        runSlot 2 r n s2 a2 = (s3, a3) ∧ runSlot 3 r n s3 a3 = (s4, a4) ∧
        t = { s4 with
          tb := t.tb
          out := s4.out ++ [.tickResult
            { haltEntry := a4.haltEntry, cycles := a4.sum, intDue := t.tb.intDue }] } ∧
        t.tb.cycleTotal = s.tb.cycleTotal + a4.sum ∧
        (if s.params.cyclesPerInt ≤ s.tb.cadence + a4.c0 then
          t.tb.intDue = true ∧ t.tb.cadence = s.tb.cadence + a4.c0 - s.params.cyclesPerInt
        else t.tb.intDue = false ∧ t.tb.cadence = s.tb.cadence + a4.c0))

/-- R178, R231, R232, R234: a board reset first calls reset on every started device, puts every module in its
reset state and CFG at 0, takes one RESET step of each module, and leaves RAM, ROM, the cycle total's
history and the host marks. -/
def Obligations.BoardResetTick : Prop :=
  ∀ (s : State) (n : Bool), s.host.fault = none → s.host.cancelRequested = false →
    ∃ t, exec (.hostTick true n) s = .next t ∧
      t = { s with mods := t.mods, cfg := t.cfg, tb := t.tb, cpu := t.cpu, out := t.out } ∧
      (s.out ++ (startedDevices s.params).map fun d => Event.device d .reset) <+: t.out ∧
      (∀ k, t.mod k = {
        r := { q0 := BitVec.ofNat 8 (2 * k.val), q1 := 0, q2 := 0, q3 := 0 }
        paging := 0, lastFetch := 0, rbc := 3
        latchReset := false, latchNmi := false, latchInt := false
        waitAsserted := false, rendezvousArmed := false, haltOut := false }) ∧
      t.cfg = { mapped := 0, ioblk := false, slvwait := false, lock := false } ∧
      t.tb.cycleTotal = s.tb.cycleTotal + 4 * s.params.resetStepCycles.setWidth 64

/-- R171, R183, R184, R190: a tick in which no input is asserted and every CpuCore's step ends without a call:
what it adds to the timebase, what it reports, and that it changes nothing else of the block. (A tick
with calls: `TickStepsEachModuleOnceInOrder` and `SlotRunsTheCpuCoresStep`.) -/
def Obligations.QuietTick : Prop :=
  ∀ (s : State) (regs : Fin 4 → CpuRegs) (halt : Fin 4 → Bool) (cycles : Fin 4 → BitVec 32),
    s.host.fault = none → s.host.cancelRequested = false → s.cfg.slvwait = false →
    (∀ k, coreStep s.params k (s.cpu.get k)
        { reset := false, nmi := false, int := false, wait := false, halt := (s.mod k).haltOut } =
          .finish (regs k) (halt k) (cycles k) ∧
      (s.mod k).latchReset = false ∧ (s.mod k).latchNmi = false ∧ (s.mod k).latchInt = false ∧
      (s.mod k).waitAsserted = false) →
    ∃ t res, exec (.hostTick false false) s = .next t ∧
      t = { s with mods := t.mods, tb := t.tb, cpu := t.cpu, out := t.out } ∧
      t.out.getLast? = some (.tickResult res) ∧
      (∀ k, t.cpu.get k = regs k ∧
        t.mod k = { s.mod k with haltOut := halt k || (s.mod k).haltOut } ∧
        res.haltEntry.get k = (halt k && !(s.mod k).haltOut)) ∧
      res.cycles = (cycles 0).setWidth 64 + (cycles 1).setWidth 64 +
        (cycles 2).setWidth 64 + (cycles 3).setWidth 64 ∧
      res.intDue = t.tb.intDue ∧
      t.tb.cycleTotal = s.tb.cycleTotal + res.cycles ∧
      (if s.params.cyclesPerInt ≤ s.tb.cadence + (cycles 0).setWidth 64 then
        t.tb.intDue = true ∧
          t.tb.cadence = s.tb.cadence + (cycles 0).setWidth 64 - s.params.cyclesPerInt
      else t.tb.intDue = false ∧ t.tb.cadence = s.tb.cadence + (cycles 0).setWidth 64)

/-- R173, R184, and R218, which the spec derives from them: with all four modules WAITING and no other input,
a tick takes four WAIT steps and changes no module, no CPU's register state, no RAM and no
configuration; only the timebase goes on. -/
def Obligations.RendezvousDeadlockGoesOn : Prop :=
  ∀ (s : State), s.host.fault = none → s.host.cancelRequested = false →
    (∀ k, (s.mod k).waitAsserted = true ∧ (s.mod k).latchReset = false ∧
      (s.mod k).latchNmi = false ∧ (s.mod k).latchInt = false) →
    ∃ t, exec (.hostTick false false) s = .next t ∧
      t = { s with tb := t.tb, out := t.out } ∧
      t.tb.cycleTotal = s.tb.cycleTotal + 4 * s.params.waitStepCycles.setWidth 64

/-- R177 to R182, and R205, the summary the spec derives from R177 to R181: the four inputs presented to module
i in its slot, given out before anything the step does, and that the slot consumes both latches: after a
slot whose step issues no call they are 0, and no other module has changed. -/
def Obligations.SlotPresentsTheRoutedSignals : Prop :=
  ∀ (s : State) (i : ModuleIx) (r n : Bool) (acc : TickSums),
    ∃ sig rest, (runSlot i r n s acc).1.out = s.out ++ .presented i sig :: rest ∧
      sig.reset = (r || (s.mod i).latchReset) ∧
      sig.nmi = (!sig.reset && (s.mod i).latchNmi) ∧
      sig.int = ((if i = 0 then n else !s.cfg.ioblk && n) || (!sig.reset && (s.mod i).latchInt)) ∧
      sig.wait = ((!sig.reset && (s.mod i).waitAsserted) || (i != 0 && s.cfg.slvwait)) ∧
      (issuesNoCall (cpuAnswer s.params i (s.cpu.get i) sig) = true →
        ((runSlot i r n s acc).1.mod i).latchNmi = false ∧
        ((runSlot i r n s acc).1.mod i).latchInt = false ∧
        ∀ k, k ≠ i → (runSlot i r n s acc).1.mod k = s.mod k)

/-- R17, R170, R171, R174, R176: a slot without RESET in which the NMI, an INT that the CPU accepts, or no WAIT is
presented performs the CpuCore's own step, also while the module waits. Its latches are consumed and
preStep is called first; then the step's bus calls are performed as their words, in the order issued,
and it goes on by the bytes they return (`StepRun`); then postStep is called, and the CPU's registers,
HALT output and cycles are those of the step. HALT is held only where neither NMI nor INT is taken. A
slot that ends without a fault has completed such a run. -/
def Obligations.SlotRunsTheCpuCoresStep : Prop :=
  ∀ (s start : State) (i : ModuleIx) (n taken : Bool) (acc : TickSums) (sig : SignalWord),
    s.host.fault = none → (s.mod i).latchReset = false →
    sig = {
      reset := false
      nmi := (s.mod i).latchNmi
      int := (if i = 0 then n else !s.cfg.ioblk && n) || (s.mod i).latchInt
      wait := (s.mod i).waitAsserted || (i != 0 && s.cfg.slvwait)
      halt := (s.mod i).haltOut } →
    taken = (sig.nmi || (sig.int && coreAcceptsInt s.params i (s.cpu.get i))) →
    (taken = true ∨ sig.wait = false) →
    start = { s with
      mods := s.mods.set i { s.mod i with latchNmi := false, latchInt := false }
      out := s.out ++ .presented i sig ::
        (startedDevices s.params).map fun d => .device d (.preStep i) } →
    ∃ t sums, runSlot i false n s acc = (t, sums) ∧
      (∀ calls e u, StepRun i (coreStep s.params i (s.cpu.get i) sig) none start calls e u →
        u = calls.foldl (fun v c => issueCall i c v) start ∧
        t = { u with
          mods := u.mods.set i { u.mod i with haltOut := e.halt || (!taken && (s.mod i).haltOut) }
          cpu := s.cpu.set i e.regs
          out := u.out ++ (startedDevices s.params).map fun d => .device d (.postStep i e.cycles) } ∧
        (calls = [] → (t.mod i).waitAsserted = (s.mod i).waitAsserted) ∧
        sums.sum = acc.sum + e.cycles.setWidth 64 ∧
        sums.c0 = (if i = 0 then e.cycles.setWidth 64 else acc.c0)) ∧
      (t.host.fault = none → ∃ calls e u,
        StepRun i (coreStep s.params i (s.cpu.get i) sig) none start calls e u)

/-- R172, R177, R231: a slot with RESET puts its module in the reset state, issues no transaction, takes
RESET_STEP_CYCLES and reports no halt entry. -/
def Obligations.ResetSlot : Prop :=
  ∀ (s : State) (i : ModuleIx) (r n : Bool) (acc : TickSums), s.host.fault = none →
    (r || (s.mod i).latchReset) = true →
    ∃ t sums, runSlot i r n s acc = (t, sums) ∧
      t = { s with mods := t.mods, cpu := t.cpu, out := t.out } ∧
      (∀ k, k ≠ i → t.cpu.get k = s.cpu.get k) ∧
      t.mod i = {
        r := { q0 := BitVec.ofNat 8 (2 * i.val), q1 := 0, q2 := 0, q3 := 0 }
        paging := 0, lastFetch := 0, rbc := 3
        latchReset := false, latchNmi := false, latchInt := false
        waitAsserted := false, rendezvousArmed := false, haltOut := false } ∧
      (∀ k, k ≠ i → t.mod k = s.mod k) ∧
      sums.sum = acc.sum + s.params.resetStepCycles.setWidth 64 ∧ sums.haltEntry.get i = false

/-- R171, R173, R181, R182: a slot in which WAIT is the effective input: no RESET, no NMI, and no INT or one
that the CPU does not accept, which is consumed all the same. It changes nothing else of any module, no
CPU's register state, no RAM and no configuration, and takes WAIT_STEP_CYCLES. -/
def Obligations.WaitSlot : Prop :=
  ∀ (s : State) (i : ModuleIx) (n : Bool) (acc : TickSums), s.host.fault = none →
    (s.mod i).latchReset = false → (s.mod i).latchNmi = false →
    (((s.mod i).latchInt = false ∧ (n = false ∨ (i ≠ 0 ∧ s.cfg.ioblk = true))) ∨
      coreAcceptsInt s.params i (s.cpu.get i) = false) →
    ((s.mod i).waitAsserted = true ∨ (i ≠ 0 ∧ s.cfg.slvwait = true)) →
    ∃ t sums, runSlot i false n s acc = (t, sums) ∧
      t = { s with mods := t.mods, out := t.out } ∧
      t.mod i = { s.mod i with latchInt := false } ∧ (∀ k, k ≠ i → t.mod k = s.mod k) ∧
      sums.sum = acc.sum + s.params.waitStepCycles.setWidth 64 ∧ sums.haltEntry.get i = false

/-- R183: the halt edge of a completed slot, and that it touches no other module's. -/
def Obligations.SlotReportsTheHaltEdge : Prop :=
  ∀ (s t : State) (i : ModuleIx) (r n : Bool) (acc sums : TickSums),
    runSlot i r n s acc = (t, sums) → t.host.fault = none →
    sums.haltEntry.get i =
      ((t.mod i).haltOut && !(!(r || (s.mod i).latchReset) && (s.mod i).haltOut)) ∧
    ∀ k, k ≠ i → sums.haltEntry.get k = acc.haltEntry.get k ∧
      (t.mod k).haltOut = (s.mod k).haltOut

/-- R174: a halted module whose slot presents no RESET and no NMI, and no INT or one that the CPU does not
accept, stays halted and reports no entry. -/
def Obligations.HaltedModuleStaysHalted : Prop :=
  ∀ (s t : State) (i : ModuleIx) (n : Bool) (acc sums : TickSums),
    runSlot i false n s acc = (t, sums) → t.host.fault = none → (s.mod i).haltOut = true →
    (s.mod i).latchReset = false → (s.mod i).latchNmi = false →
    (((s.mod i).latchInt = false ∧ (n = false ∨ (i ≠ 0 ∧ s.cfg.ioblk = true))) ∨
      coreAcceptsInt s.params i (s.cpu.get i) = false) →
    (t.mod i).haltOut = true ∧ sums.haltEntry.get i = false

/-- R186: SNAPSHOT answers with a copy of RAM, R0..R3, PAGING, CFG and TB and changes nothing. -/
def Obligations.SnapshotIsACopy : Prop :=
  ∀ (s : State), ∃ c : Snapshot,
    exec .hostSnapshot s = .next { s with out := s.out ++ [.snapshot c] } ∧
    c.ram = s.ram ∧ c.cfg = s.cfg ∧ c.tb = s.tb ∧
    ∀ k, c.regs.get k = (s.mod k).r ∧ c.paging.get k = (s.mod k).paging

/-- R187: CANCEL sets the mark and nothing else; from then on TICK is refused and SNAPSHOT still answers. -/
def Obligations.CancelStopsTicks : Prop :=
  ∀ (s : State), ∃ t, exec .hostCancel s = .next t ∧
    t = { s with host := { s.host with cancelRequested := true } } ∧
    (∀ r n, ∃ why, exec (.hostTick r n) t = .refused why) ∧
    ∃ u, exec .hostSnapshot t = .next u

/-! Invariants of every step (10_state.md R54). -/

/-- R48, R49: every step keeps the arrays in canonical form (the model's, log entry 1) and inside their
sizes. -/
def Obligations.StepKeepsArraysWellFormed : Prop :=
  ∀ (s t : State), arraysWf s = true → step s = .next t → arraysWf t = true

/-- R49, R67, R54: no step changes ROM. That no step changes the parameters of R7 is the model's choice (log
entry 2). -/
def Obligations.StepKeepsRomAndParameters : Prop :=
  ∀ (s t : State), step s = .next t →
    t.rom0 = s.rom0 ∧ t.rom1 = s.rom1 ∧ t.params = s.params

/-- R74, R201: no step records DecodeOutOfWindow, nor RamOverflow under RAM_OVERFLOW = Wrap. -/
def Obligations.StepKeepsFaultLegal : Prop :=
  ∀ (s t : State), faultLegal s = true → step s = .next t → faultLegal t = true

/-- R30, R54 (derived by the spec): a paging register whose lock is set is constant until its module resets.
In a tick that resets the module, the tick leaves it in its reset state. -/
def Obligations.PagingLockHoldsUntilReset : Prop :=
  ∀ (s t : State) (k : ModuleIx), step s = .next t → (s.mod k).paging.getLsbD 5 = true →
    (t.mod k).paging = (s.mod k).paging ∨ t.mod k = moduleAtReset k

/-- R32, R54: between resets of its module a readback counter never increases. -/
def Obligations.ReadbackCounterOnlyDecreases : Prop :=
  ∀ (s t : State) (k : ModuleIx), step s = .next t →
    (t.mod k).rbc ≤ (s.mod k).rbc ∨ t.mod k = moduleAtReset k

/-- R47: no step clears the cancel mark or a recorded fault. -/
def Obligations.HostMarksAreNeverCleared : Prop :=
  ∀ (s t : State), step s = .next t →
    (s.host.cancelRequested = true → t.host.cancelRequested = true) ∧
    (s.host.fault ≠ none → t.host.fault ≠ none)

/-- R233, R21, R32: the state at power-on (the values the spec gives; the bytes of RAM and ROM and the
parameters, log entries 1 and 2, are the model's and not claimed here), and that it meets the invariants. -/
def Obligations.PowerOnState : Prop :=
  (∀ k, State.reset.mod k = {
    r := { q0 := BitVec.ofNat 8 (2 * k.val), q1 := 0, q2 := 0, q3 := 0 }
    paging := 0, lastFetch := 0, rbc := 3
    latchReset := false, latchNmi := false, latchInt := false
    waitAsserted := false, rendezvousArmed := false, haltOut := false }) ∧
  State.reset.cfg = { mapped := 0, ioblk := false, slvwait := false, lock := false } ∧
  State.reset.tb = { cycleTotal := 0, cadence := 0, intDue := false } ∧
  State.reset.host = { cancelRequested := false, fault := none } ∧
  arraysWf State.reset = true ∧ faultLegal State.reset = true
end

