-- ==== Sys2Proof/Laws/State.lean ====
section
/-! SUPPORT. The small lemmas of the state's updates: what each field is after each named update, and
what a module reads as after a module is replaced. -/

namespace Sys2Proof.Machine

@[simp] theorem Four.get_set_same {α : Type} (f : Four α) (i : Fin 4) (x : α) :
    (f.set i x).get i = x := by
  match i with
  | 0 => rfl
  | 1 => rfl
  | 2 => rfl
  | 3 => rfl

theorem Four.get_set_ne {α : Type} (f : Four α) {i k : Fin 4} (x : α) (h : k ≠ i) :
    (f.set i x).get k = f.get k := by
  match i, k with
  | 0, 0 | 1, 1 | 2, 2 | 3, 3 => exact absurd rfl h
  | 0, 1 | 0, 2 | 0, 3 | 1, 0 | 1, 2 | 1, 3 => rfl
  | 2, 0 | 2, 1 | 2, 3 | 3, 0 | 3, 1 | 3, 2 => rfl

theorem Four.get_set {α : Type} (f : Four α) (i k : Fin 4) (x : α) :
    (f.set i x).get k = if k = i then x else f.get k := by
  by_cases h : k = i
  · subst h; simp
  · simp [h, Four.get_set_ne f x h]

@[simp] theorem Four.get_tabulate {α : Type} (g : Fin 4 → α) (i : Fin 4) :
    (Four.tabulate g).get i = g i := by
  match i with
  | 0 => rfl
  | 1 => rfl
  | 2 => rfl
  | 3 => rfl

/-- Two groups with the same things at every index are equal. -/
theorem Four.ext_get {α : Type} {f g : Four α} (h : ∀ i, f.get i = g.get i) : f = g := by
  cases f; cases g
  have h0 := h 0; have h1 := h 1; have h2 := h 2; have h3 := h 3
  simp only [Four.get] at h0 h1 h2 h3
  simp [h0, h1, h2, h3]

@[simp] theorem Four.set_get_self {α : Type} (f : Four α) (i : Fin 4) : f.set i (f.get i) = f := by
  refine Four.ext_get fun k => ?_
  rw [Four.get_set]
  split
  · next h => rw [h]
  · rfl

@[simp] theorem State.setMod_mods (s : State) (i : ModuleIx) (m : ModuleState) :
    (s.setMod i m).mods = s.mods.set i m := rfl
@[simp] theorem State.setMod_cfg (s : State) (i : ModuleIx) (m : ModuleState) :
    (s.setMod i m).cfg = s.cfg := rfl
@[simp] theorem State.setMod_tb (s : State) (i : ModuleIx) (m : ModuleState) :
    (s.setMod i m).tb = s.tb := rfl
@[simp] theorem State.setMod_host (s : State) (i : ModuleIx) (m : ModuleState) :
    (s.setMod i m).host = s.host := rfl
@[simp] theorem State.setMod_ram (s : State) (i : ModuleIx) (m : ModuleState) :
    (s.setMod i m).ram = s.ram := rfl
@[simp] theorem State.setMod_rom0 (s : State) (i : ModuleIx) (m : ModuleState) :
    (s.setMod i m).rom0 = s.rom0 := rfl
@[simp] theorem State.setMod_rom1 (s : State) (i : ModuleIx) (m : ModuleState) :
    (s.setMod i m).rom1 = s.rom1 := rfl
@[simp] theorem State.setMod_params (s : State) (i : ModuleIx) (m : ModuleState) :
    (s.setMod i m).params = s.params := rfl
@[simp] theorem State.setMod_pending (s : State) (i : ModuleIx) (m : ModuleState) :
    (s.setMod i m).pending = s.pending := rfl
@[simp] theorem State.setMod_cpu (s : State) (i : ModuleIx) (m : ModuleState) :
    (s.setMod i m).cpu = s.cpu := rfl
@[simp] theorem State.setMod_draws (s : State) (i : ModuleIx) (m : ModuleState) :
    (s.setMod i m).draws = s.draws := rfl
@[simp] theorem State.setMod_out (s : State) (i : ModuleIx) (m : ModuleState) :
    (s.setMod i m).out = s.out := rfl

@[simp] theorem State.emit_mods (s : State) (e : Event) :
    (s.emit e).mods = s.mods := rfl
@[simp] theorem State.emit_cfg (s : State) (e : Event) :
    (s.emit e).cfg = s.cfg := rfl
@[simp] theorem State.emit_tb (s : State) (e : Event) :
    (s.emit e).tb = s.tb := rfl
@[simp] theorem State.emit_host (s : State) (e : Event) :
    (s.emit e).host = s.host := rfl
@[simp] theorem State.emit_ram (s : State) (e : Event) :
    (s.emit e).ram = s.ram := rfl
@[simp] theorem State.emit_rom0 (s : State) (e : Event) :
    (s.emit e).rom0 = s.rom0 := rfl
@[simp] theorem State.emit_rom1 (s : State) (e : Event) :
    (s.emit e).rom1 = s.rom1 := rfl
@[simp] theorem State.emit_params (s : State) (e : Event) :
    (s.emit e).params = s.params := rfl
@[simp] theorem State.emit_pending (s : State) (e : Event) :
    (s.emit e).pending = s.pending := rfl
@[simp] theorem State.emit_cpu (s : State) (e : Event) :
    (s.emit e).cpu = s.cpu := rfl
@[simp] theorem State.emit_draws (s : State) (e : Event) :
    (s.emit e).draws = s.draws := rfl
@[simp] theorem State.emit_out (s : State) (e : Event) :
    (s.emit e).out = s.out ++ [e] := rfl

@[simp] theorem State.ramWrite_mods (s : State) (pa : PhysAddr) (v : Byte) :
    (s.ramWrite pa v).mods = s.mods := rfl
@[simp] theorem State.ramWrite_cfg (s : State) (pa : PhysAddr) (v : Byte) :
    (s.ramWrite pa v).cfg = s.cfg := rfl
@[simp] theorem State.ramWrite_tb (s : State) (pa : PhysAddr) (v : Byte) :
    (s.ramWrite pa v).tb = s.tb := rfl
@[simp] theorem State.ramWrite_host (s : State) (pa : PhysAddr) (v : Byte) :
    (s.ramWrite pa v).host = s.host := rfl
@[simp] theorem State.ramWrite_ram (s : State) (pa : PhysAddr) (v : Byte) :
    (s.ramWrite pa v).ram = s.ram.write pa.toNat v := rfl
@[simp] theorem State.ramWrite_rom0 (s : State) (pa : PhysAddr) (v : Byte) :
    (s.ramWrite pa v).rom0 = s.rom0 := rfl
@[simp] theorem State.ramWrite_rom1 (s : State) (pa : PhysAddr) (v : Byte) :
    (s.ramWrite pa v).rom1 = s.rom1 := rfl
@[simp] theorem State.ramWrite_params (s : State) (pa : PhysAddr) (v : Byte) :
    (s.ramWrite pa v).params = s.params := rfl
@[simp] theorem State.ramWrite_pending (s : State) (pa : PhysAddr) (v : Byte) :
    (s.ramWrite pa v).pending = s.pending := rfl
@[simp] theorem State.ramWrite_cpu (s : State) (pa : PhysAddr) (v : Byte) :
    (s.ramWrite pa v).cpu = s.cpu := rfl
@[simp] theorem State.ramWrite_draws (s : State) (pa : PhysAddr) (v : Byte) :
    (s.ramWrite pa v).draws = s.draws := rfl
@[simp] theorem State.ramWrite_out (s : State) (pa : PhysAddr) (v : Byte) :
    (s.ramWrite pa v).out = s.out := rfl

@[simp] theorem raiseInternalFault_mods (r : InternalFault) (s : State) :
    (raiseInternalFault r s).mods = s.mods := rfl
@[simp] theorem raiseInternalFault_cfg (r : InternalFault) (s : State) :
    (raiseInternalFault r s).cfg = s.cfg := rfl
@[simp] theorem raiseInternalFault_tb (r : InternalFault) (s : State) :
    (raiseInternalFault r s).tb = s.tb := rfl
@[simp] theorem raiseInternalFault_host (r : InternalFault) (s : State) :
    (raiseInternalFault r s).host = { s.host with fault := some r } := rfl
@[simp] theorem raiseInternalFault_ram (r : InternalFault) (s : State) :
    (raiseInternalFault r s).ram = s.ram := rfl
@[simp] theorem raiseInternalFault_rom0 (r : InternalFault) (s : State) :
    (raiseInternalFault r s).rom0 = s.rom0 := rfl
@[simp] theorem raiseInternalFault_rom1 (r : InternalFault) (s : State) :
    (raiseInternalFault r s).rom1 = s.rom1 := rfl
@[simp] theorem raiseInternalFault_params (r : InternalFault) (s : State) :
    (raiseInternalFault r s).params = s.params := rfl
@[simp] theorem raiseInternalFault_pending (r : InternalFault) (s : State) :
    (raiseInternalFault r s).pending = s.pending := rfl
@[simp] theorem raiseInternalFault_cpu (r : InternalFault) (s : State) :
    (raiseInternalFault r s).cpu = s.cpu := rfl
@[simp] theorem raiseInternalFault_draws (r : InternalFault) (s : State) :
    (raiseInternalFault r s).draws = s.draws := rfl
@[simp] theorem raiseInternalFault_out (r : InternalFault) (s : State) :
    (raiseInternalFault r s).out = s.out := rfl

@[simp] theorem State.withFetchWord_mods (s : State) (nbits w : Nat) :
    (s.withFetchWord nbits w).mods = s.mods := rfl
@[simp] theorem State.withFetchWord_cfg (s : State) (nbits w : Nat) :
    (s.withFetchWord nbits w).cfg = s.cfg := rfl
@[simp] theorem State.withFetchWord_tb (s : State) (nbits w : Nat) :
    (s.withFetchWord nbits w).tb = s.tb := rfl
@[simp] theorem State.withFetchWord_host (s : State) (nbits w : Nat) :
    (s.withFetchWord nbits w).host = s.host := rfl
@[simp] theorem State.withFetchWord_ram (s : State) (nbits w : Nat) :
    (s.withFetchWord nbits w).ram = s.ram := rfl
@[simp] theorem State.withFetchWord_rom0 (s : State) (nbits w : Nat) :
    (s.withFetchWord nbits w).rom0 = s.rom0 := rfl
@[simp] theorem State.withFetchWord_rom1 (s : State) (nbits w : Nat) :
    (s.withFetchWord nbits w).rom1 = s.rom1 := rfl
@[simp] theorem State.withFetchWord_params (s : State) (nbits w : Nat) :
    (s.withFetchWord nbits w).params = s.params := rfl
@[simp] theorem State.withFetchWord_pending (s : State) (nbits w : Nat) :
    (s.withFetchWord nbits w).pending = [offeredWord nbits w] := rfl
@[simp] theorem State.withFetchWord_cpu (s : State) (nbits w : Nat) :
    (s.withFetchWord nbits w).cpu = s.cpu := rfl
@[simp] theorem State.withFetchWord_draws (s : State) (nbits w : Nat) :
    (s.withFetchWord nbits w).draws = s.draws := rfl
@[simp] theorem State.withFetchWord_out (s : State) (nbits w : Nat) :
    (s.withFetchWord nbits w).out = s.out := rfl

@[simp] theorem State.setMod_mod_same (s : State) (i : ModuleIx) (m : ModuleState) :
    (s.setMod i m).mod i = m := Four.get_set_same s.mods i m

theorem State.setMod_mod_ne (s : State) {i k : ModuleIx} (m : ModuleState) (h : k ≠ i) :
    (s.setMod i m).mod k = s.mod k := Four.get_set_ne s.mods m h

theorem State.setMod_mod (s : State) (i k : ModuleIx) (m : ModuleState) :
    (s.setMod i m).mod k = if k = i then m else s.mod k := Four.get_set s.mods i k m

@[simp] theorem State.emit_mod (s : State) (e : Event) (k : ModuleIx) : (s.emit e).mod k = s.mod k := rfl

@[simp] theorem State.ramWrite_mod (s : State) (pa : PhysAddr) (v : Byte) (k : ModuleIx) :
    (s.ramWrite pa v).mod k = s.mod k := rfl

@[simp] theorem raiseInternalFault_mod (r : InternalFault) (s : State) (k : ModuleIx) :
    (raiseInternalFault r s).mod k = s.mod k := rfl

@[simp] theorem State.setMod_ramRead (s : State) (i : ModuleIx) (m : ModuleState) (pa : PhysAddr) :
    (s.setMod i m).ramRead pa = s.ramRead pa := rfl

@[simp] theorem State.emit_ramRead (s : State) (e : Event) (pa : PhysAddr) :
    (s.emit e).ramRead pa = s.ramRead pa := rfl

@[simp] theorem raiseInternalFault_ramRead (r : InternalFault) (s : State) (pa : PhysAddr) :
    (raiseInternalFault r s).ramRead pa = s.ramRead pa := rfl

@[simp] theorem State.setMod_romRead (s : State) (i : ModuleIx) (m : ModuleState) (k : Bool)
    (off : RomOffset) : (s.setMod i m).romRead k off = s.romRead k off := rfl

/-- A state is its module's state put back. -/
@[simp] theorem State.setMod_self (s : State) (i : ModuleIx) : s.setMod i (s.mod i) = s := by
  simp [State.setMod, State.mod]

/-- Two states with the same modules are equal when every other field agrees. -/
theorem State.ext_mods {s t : State} (h : ∀ k, t.mod k = s.mod k) (e : t = { s with mods := t.mods }) :
    t = s := by
  have : t.mods = s.mods := Four.ext_get h
  rw [e, this]

end Sys2Proof.Machine
end

