-- ==== Sys2Proof/Laws/Encoding.lean ====
section
/-! SUPPORT. The fields of a Bus Transaction Word: each field of a packed word, a word packed again from
its fields, and the port dispatch under each claim of the port decode. -/

namespace Sys2Proof

open Sys2Proof.Machine

@[simp] theorem ixOfBits_bitsOfIx (i : Fin 4) : ixOfBits (bitsOfIx i) = i := by
  revert i; decide

@[simp] theorem bitsOfIx_ixOfBits (b : BitVec 2) : bitsOfIx (ixOfBits b) = b := by
  revert b; decide

@[simp] theorem btwInit_pack (i : ModuleIx) (k : BitVec 3) (a : BitVec 16) (d : Byte) :
    btwInit (pack i k a d) = i := by
  have : (pack i k a d).extractLsb' 30 2 = bitsOfIx i := by
    ext j hj
    simp only [pack, BitVec.getElem_extractLsb', BitVec.getLsbD_append]
    simp +arith [BitVec.getLsbD_eq_getElem hj]
  rw [btwInit, this, ixOfBits_bitsOfIx]

@[simp] theorem btwKind_pack (i : ModuleIx) (k : BitVec 3) (a : BitVec 16) (d : Byte) :
    btwKind (pack i k a d) = k := by
  ext j hj
  simp only [btwKind, pack, BitVec.getElem_extractLsb', BitVec.getLsbD_append]
  simp +arith [hj, BitVec.getLsbD_eq_getElem]

@[simp] theorem btwMbz_pack (i : ModuleIx) (k : BitVec 3) (a : BitVec 16) (d : Byte) :
    btwMbz (pack i k a d) = 0 := by
  ext j hj
  simp only [btwMbz, pack, BitVec.getElem_extractLsb', BitVec.getLsbD_append]
  simp +arith [hj]

@[simp] theorem btwAddr_pack (i : ModuleIx) (k : BitVec 3) (a : BitVec 16) (d : Byte) :
    btwAddr (pack i k a d) = a := by
  ext j hj
  simp only [btwAddr, pack, BitVec.getElem_extractLsb', BitVec.getLsbD_append]
  simp +arith [hj, BitVec.getLsbD_eq_getElem]

@[simp] theorem btwData_pack (i : ModuleIx) (k : BitVec 3) (a : BitVec 16) (d : Byte) :
    btwData (pack i k a d) = d := by
  ext j hj
  simp only [btwData, pack, BitVec.getElem_extractLsb', BitVec.getLsbD_append]
  simp +arith [hj, BitVec.getLsbD_eq_getElem]

/-- A word whose MBZ field is zero is packed from its other fields. -/
theorem pack_fields (w : Btw) (h : btwMbz w = 0) :
    pack (btwInit w) (btwKind w) (btwAddr w) (btwData w) = w := by
  ext j hj
  have hm : ∀ k, k < 3 → w.getLsbD (24 + k) = false := by
    intro k hk
    have := congrArg (fun b : BitVec 3 => b.getLsbD k) h
    simpa [btwMbz, BitVec.getLsbD_extractLsb', hk] using this
  rw [← BitVec.getLsbD_eq_getElem, ← BitVec.getLsbD_eq_getElem]
  simp only [pack, btwInit, bitsOfIx_ixOfBits, btwKind, btwAddr, btwData, BitVec.getLsbD_append,
    BitVec.getLsbD_extractLsb']
  by_cases h1 : j < 8
  · simp [h1]
  · by_cases h2 : j - 8 < 16
    · simp [h1, h2]; congr 1; omega
    · by_cases h3 : j - 8 - 16 < 3
      · have := hm (j - 24) (by omega)
        rw [show 24 + (j - 24) = j by omega] at this
        simp [h1, h2, h3, this]
      · by_cases h4 : j - 8 - 16 - 3 < 3
        · simp [h1, h2, h3, h4]; congr 1; omega
        · have h5 : j - 8 - 16 - 3 - 3 < 2 := by omega
          simp [h1, h2, h3, h4, h5]; congr 1; omega

/-- A port read decodes to the row whose port claim holds. -/
theorem dispatchRead_cases (q : Params) (i : ModuleIx) (p : Port) :
    (isCtrlPort q p = true ∧ dispatchRead q i p = .iordCtrl i p) ∨
    (claimsPaging q p = true ∧ dispatchRead q i p = .iordStatus i p) ∨
    (claimsCfg q p = true ∧ dispatchRead q i p = .iordCfg i p) ∨
    (isUnclaimed q p = true ∧ isMappedAccess q i p = true ∧
      dispatchRead q i p = .iordMapped i p) ∨
    (isUnclaimed q p = true ∧ isMappedAccess q i p = false ∧ dispatchRead q i p = .iordDev i p) := by
  unfold claimsPaging claimsCfg isUnclaimed dispatchRead
  cases isCtrlPort q p <;> cases isPagingPort q p <;> cases isCfgPort q p <;>
    cases isMappedAccess q i p <;> simp

/-- A port write decodes to the row whose port claim holds. -/
theorem dispatchWrite_cases (q : Params) (i : ModuleIx) (p : Port) (v : Byte) :
    (isCtrlPort q p = true ∧ dispatchWrite q i p v = .iowrCtrl i p v) ∨
    (claimsPaging q p = true ∧ dispatchWrite q i p v = .iowrPaging i p v) ∨
    (claimsCfg q p = true ∧ dispatchWrite q i p v = .iowrCfg i p v) ∨
    (isUnclaimed q p = true ∧ isMappedAccess q i p = true ∧
      dispatchWrite q i p v = .iowrMapped i p v) ∨
    (isUnclaimed q p = true ∧ isMappedAccess q i p = false ∧
      dispatchWrite q i p v = .iowrDev i p v) := by
  unfold claimsPaging claimsCfg isUnclaimed dispatchWrite
  cases isCtrlPort q p <;> cases isPagingPort q p <;> cases isCfgPort q p <;>
    cases isMappedAccess q i p <;> simp

end Sys2Proof
end

