-- ==== Sys2Proof/Laws/Memory.lean ====
section
/-! SUPPORT. The byte arrays: a read after a write, and that a write keeps the canonical form and the
size of the array. -/

namespace Sys2Proof.Machine

theorem Memory.read_of_rising {lo k : Nat} {m : Memory} (h : Memory.rising lo m = true) (hk : k < lo) :
    Memory.read m k = Memory.unlisted := by
  induction m generalizing lo with
  | nil => rfl
  | cons c m ih =>
    obtain ⟨a, v⟩ := c
    simp only [Memory.rising, Bool.and_eq_true, decide_eq_true_eq] at h
    have hne : k ≠ a := by omega
    simp only [Memory.read, if_neg hne]
    exact ih h.2 (by omega)

theorem Memory.rising_mono {lo lo' : Nat} {m : Memory} (h : Memory.rising lo m = true)
    (hl : lo' ≤ lo) : Memory.rising lo' m = true := by
  cases m with
  | nil => rfl
  | cons c m =>
    obtain ⟨a, v⟩ := c
    simp only [Memory.rising, Bool.and_eq_true, decide_eq_true_eq] at h ⊢
    exact ⟨⟨by omega, h.1.2⟩, h.2⟩

theorem Memory.read_cell_append (k : Nat) (v : Byte) (m : Memory) (j : Nat)
    (h : Memory.read m k = Memory.unlisted) :
    Memory.read (Memory.cell k v ++ m) j = if j = k then v else Memory.read m j := by
  unfold Memory.cell
  by_cases hv : v = Memory.unlisted
  · by_cases hj : j = k
    · subst hj; simp [hv, h]
    · simp [hv, hj]
  · simp [hv, Memory.read]

/-- Read after write, at the same address and at every other. -/
theorem Memory.read_write {lo : Nat} {m : Memory} (h : Memory.rising lo m = true) (k : Nat) (v : Byte)
    (j : Nat) : Memory.read (Memory.write m k v) j = if j = k then v else Memory.read m j := by
  induction m generalizing lo with
  | nil =>
    have := Memory.read_cell_append k v [] j rfl
    simpa [Memory.write] using this
  | cons c m ih =>
    obtain ⟨a, b⟩ := c
    have h' := h
    simp only [Memory.rising, Bool.and_eq_true, decide_eq_true_eq] at h'
    by_cases hlt : k < a
    · have hr : Memory.read ((a, b) :: m) k = Memory.unlisted := by
        apply Memory.read_of_rising (lo := a) _ hlt
        simp only [Memory.rising, Bool.and_eq_true, decide_eq_true_eq]
        exact ⟨⟨le_refl _, h'.1.2⟩, h'.2⟩
      simpa [Memory.write, hlt] using Memory.read_cell_append k v ((a, b) :: m) j hr
    · by_cases heq : k = a
      · subst heq
        have hr : Memory.read m k = Memory.unlisted := Memory.read_of_rising h'.2 (by omega)
        have := Memory.read_cell_append k v m j hr
        simp only [Memory.write, lt_irrefl, if_false, if_true]
        rw [this]
        by_cases hj : j = k
        · simp [hj]
        · simp [Memory.read, hj]
      · simp only [Memory.write, hlt, heq, if_false, Memory.read]
        by_cases hj : j = a
        · have : j ≠ k := by omega
          simp [hj, Ne.symm heq]
        · simp [hj, ih h'.2]

theorem Memory.rising_cell_append {lo k : Nat} (v : Byte) {m : Memory} (hk : lo ≤ k)
    (h : Memory.rising (k + 1) m = true) : Memory.rising lo (Memory.cell k v ++ m) = true := by
  unfold Memory.cell
  by_cases hv : v = Memory.unlisted
  · simpa [hv] using Memory.rising_mono h (by omega)
  · simp [hv, Memory.rising, hk, h]

theorem Memory.rising_write {lo : Nat} {m : Memory} (h : Memory.rising lo m = true) (k : Nat) (v : Byte)
    (hk : lo ≤ k) : Memory.rising lo (Memory.write m k v) = true := by
  induction m generalizing lo with
  | nil =>
    have := Memory.rising_cell_append (lo := lo) v (m := []) hk rfl
    simpa [Memory.write] using this
  | cons c m ih =>
    obtain ⟨a, b⟩ := c
    have h' := h
    simp only [Memory.rising, Bool.and_eq_true, decide_eq_true_eq] at h'
    by_cases hlt : k < a
    · have hm : Memory.rising (k + 1) ((a, b) :: m) = true := by
        simp only [Memory.rising, Bool.and_eq_true, decide_eq_true_eq]
        exact ⟨⟨by omega, h'.1.2⟩, h'.2⟩
      simpa [Memory.write, hlt] using Memory.rising_cell_append v hk hm
    · by_cases heq : k = a
      · subst heq
        simpa [Memory.write] using Memory.rising_cell_append v hk h'.2
      · simp only [Memory.write, hlt, heq, if_false, Memory.rising, Bool.and_eq_true,
          decide_eq_true_eq]
        exact ⟨h'.1, ih h'.2 (by omega)⟩

/-- A write keeps the canonical form. -/
theorem Memory.wf_write {m : Memory} (h : m.wf = true) (k : Nat) (v : Byte) :
    (m.write k v).wf = true := Memory.rising_write h k v (Nat.zero_le k)

/-- A write inside the array's size keeps the array inside its size. -/
theorem Memory.below_write {n : Nat} {m : Memory} (h : m.below n = true) {k : Nat} (v : Byte)
    (hk : k < n) : (m.write k v).below n = true := by
  have hc : ∀ c ∈ Memory.cell k v, c.1 < n := by
    intro c hc
    unfold Memory.cell at hc
    split at hc
    · simp at hc
    · simp only [List.mem_singleton] at hc; subst hc; exact hk
  simp only [Memory.below, List.all_eq_true, decide_eq_true_eq] at h ⊢
  induction m with
  | nil => simpa [Memory.write] using hc
  | cons c m ih =>
    obtain ⟨a, b⟩ := c
    have hm : ∀ c ∈ m, c.1 < n := fun c hc => h c (List.mem_cons_of_mem _ hc)
    intro x hx
    simp only [Memory.write] at hx
    split at hx
    · rcases List.mem_append.mp hx with hx | hx
      · exact hc x hx
      · exact h x hx
    · split at hx
      · rcases List.mem_append.mp hx with hx | hx
        · exact hc x hx
        · exact hm x hx
      · rcases List.mem_cons.mp hx with hx | hx
        · subst hx; exact h _ List.mem_cons_self
        · exact ih hm x hx

/-- MemRead after MemWrite (R10), while the RAM has its canonical form. -/
theorem State.ramRead_ramWrite {s : State} (h : s.ram.wf = true) (pa k : PhysAddr) (v : Byte) :
    (s.ramWrite pa v).ramRead k = if k = pa then v else s.ramRead k := by
  simp only [State.ramRead, State.ramWrite, Memory.read_write h]
  by_cases hk : k = pa
  · simp [hk]
  · have : k.toNat ≠ pa.toNat := fun e => hk (BitVec.eq_of_toNat_eq e)
    simp [hk, this]

end Sys2Proof.Machine
end

