-- ==== Sys2Proof/Laws/Ops.lean ====
section
/-! SUPPORT. For each shared operation, once, everything it can do. -/

namespace Sys2Proof.Machine

/-! The memory-bank selector. -/

/-- R74: every window number is one of the four windows. -/
theorem bankOf_eq_some (m : ModuleState) (w : BitVec 2) : ∃ b, bankOf m w = some b := by
  unfold bankOf
  by_cases h0 : w = 0
  · exact ⟨0, by simp [h0]⟩
  by_cases h1 : w = 1
  · exact ⟨5, by simp [h1]⟩
  by_cases h2 : w = 2
  · exact ⟨2, by simp [h2]⟩
  by_cases h3 : w = 3
  · exact ⟨pageField m, by simp [h3]⟩
  · exfalso
    have : ∀ x : BitVec 2, x = 0 ∨ x = 1 ∨ x = 2 ∨ x = 3 := by decide
    rcases this w with h | h | h | h <;> contradiction

/-- The selector gives a ROM byte in a ROM window, and the RAM byte of the window's bank elsewhere. -/
theorem memTarget_cases (q : Params) (m : ModuleState) (a : Addr) :
    (isRom m (windowOf a) = true ∧ memTarget q m a = .rom (romSel m) (windowOffset a)) ∨
    (isRom m (windowOf a) = false ∧ ∃ b, bankOf m (windowOf a) = some b ∧
      memTarget q m a = ramTarget q m b (windowOffset a)) := by
  unfold memTarget
  cases h : isRom m (windowOf a)
  · obtain ⟨b, hb⟩ := bankOf_eq_some m (windowOf a)
    exact .inr ⟨rfl, b, hb, by simp [hb]⟩
  · exact .inl ⟨rfl, by simp⟩

/-- R65: a bank's byte is a RAM byte, unless the offset overflows under RAM_OVERFLOW = Fault. -/
theorem ramTarget_cases (q : Params) (m : ModuleState) (b : BitVec 3) (off : BitVec 14) :
    (ramSize ≤ rawOffset m b off ∧ q.ramOverflow = .fault ∧
      ramTarget q m b off = .overflow (rawOffset m b off)) ∨
    (¬(ramSize ≤ rawOffset m b off ∧ q.ramOverflow = .fault) ∧
      ramTarget q m b off = .ram (BitVec.ofNat 19 (rawOffset m b off))) := by
  unfold ramTarget
  split
  · next h => exact .inl ⟨h.1, h.2, rfl⟩
  · next h => exact .inr ⟨h, rfl⟩

/-- The bank selector reads only R0 and the paging register. -/
theorem memTarget_congr (q : Params) {m n : ModuleState} (hr : n.r.get 0 = m.r.get 0)
    (hp : n.paging = m.paging) (a : Addr) : memTarget q n a = memTarget q m a := by
  have h1 : isRom n = isRom m := by funext w; simp [isRom, ramRom, hp]
  have h2 : bankOf n = bankOf m := by funext w; simp [bankOf, pageField, hp]
  have h3 : ramTarget q n = ramTarget q m := by
    have h : rawOffset n = rawOffset m := by funext b off; simp [rawOffset, bankOfs, hr]
    funext b off
    simp only [ramTarget, h]
  have h4 : romSel n = romSel m := by simp [romSel, hp]
  simp only [memTarget, h1, h2, h3, h4]

/-- R107: the mapped offset as a number, which never exceeds 0x7FFFF (R84). -/
theorem mappedPa_toNat (t : ModuleState) (p : Port) :
    (mappedPa t p).toNat = (bankOfs t).toNat * 65536 + p.toNat := by
  have hp : p.toNat < 2 ^ 16 := p.isLt
  rw [mappedPa, BitVec.toNat_append, ← Nat.shiftLeft_add_eq_or_of_lt hp, Nat.shiftLeft_eq]

/-! The read and write decodes. -/

/-- R124: a read answers with a byte, or takes the overflow fault. -/
theorem decodedRead_cases (i : ModuleIx) (a : Addr) (s : State) :
    (∃ v, decodedRead i a s = s.emit (.returned i v)) ∨
    (∃ off, ramSize ≤ off ∧ s.params.ramOverflow = .fault ∧
      decodedRead i a s = raiseInternalFault (.ramOverflow i a off) s) := by
  unfold decodedRead
  rcases memTarget_cases s.params (s.mod i) a with ⟨-, h⟩ | ⟨-, b, -, h⟩
  · exact .inl ⟨_, by rw [h]⟩
  · rcases ramTarget_cases s.params (s.mod i) b (windowOffset a) with ⟨ho, hf, h'⟩ | ⟨-, h'⟩
    · exact .inr ⟨_, ho, hf, by rw [h, h']⟩
    · exact .inl ⟨_, by rw [h, h']⟩

/-- R125: a write that WRDIS lets through changes nothing, stores one byte, or takes the overflow fault. -/
theorem decodedWrite_cases (i : ModuleIx) (a : Addr) (v : Byte) (s : State) :
    decodedWrite i a v s = s ∨ (∃ pa, decodedWrite i a v s = s.ramWrite pa v) ∨
    (∃ off, ramSize ≤ off ∧ s.params.ramOverflow = .fault ∧
      decodedWrite i a v s = raiseInternalFault (.ramOverflow i a off) s) := by
  unfold decodedWrite
  rcases memTarget_cases s.params (s.mod i) a with ⟨-, h⟩ | ⟨-, b, -, h⟩
  · exact .inl (by rw [h])
  · rcases ramTarget_cases s.params (s.mod i) b (windowOffset a) with ⟨ho, hf, h'⟩ | ⟨-, h'⟩
    · exact .inr (.inr ⟨_, ho, hf, by rw [h, h']⟩)
    · exact .inr (.inl ⟨_, by rw [h, h']⟩)

/-- The read decode depends on no module's bookkeeping: another state that agrees on R0, on the paging
register and on the arrays reads the same byte. -/
theorem decodedRead_setMod (i : ModuleIx) (a : Addr) (s : State) (m : ModuleState)
    (hr : m.r.get 0 = (s.mod i).r.get 0) (hp : m.paging = (s.mod i).paging) :
    decodedRead i a (s.setMod i m) = (decodedRead i a s).setMod i m := by
  unfold decodedRead
  simp only [State.setMod_params, State.setMod_mod_same, memTarget_congr s.params hr hp]
  cases memTarget s.params (s.mod i) a <;> rfl

/-- R123: the rendezvous check sets the wait where the fetch hits, and changes nothing else. -/
theorem rendezvousCheck_eq (i : ModuleIx) (a : Addr) (s : State) :
    rendezvousCheck i a s = s.setMod i { s.mod i with
      waitAsserted := (s.mod i).waitAsserted ||
        (!s.cfg.lock && (s.mod i).rendezvousArmed && a == stopAddr (s.mod i)) } := by
  unfold rendezvousCheck
  cases h : (!s.cfg.lock && (s.mod i).rendezvousArmed && a == stopAddr (s.mod i))
  · simp only [Bool.or_false]
    exact (State.setMod_self s i).symm
  · simp

/-! The accepted control-register write. -/

/-- R144, R145: what an accepted write leaves in the target module, field by field. -/
theorem acceptedWrite_eq (q : Params) (r : RegIx) (v : Byte) (m : ModuleState) :
    acceptedWrite q r v m = { m with
      r := m.r.set r v
      latchReset := m.latchReset || (r == 0 && v.getLsbD q.r0Layout.rstreq.val)
      latchNmi := m.latchNmi || (r == 0 && v.getLsbD q.r0Layout.nmireq.val)
      latchInt := m.latchInt || (r == 0 && v.getLsbD q.r0Layout.intreq.val)
      rendezvousArmed := m.rendezvousArmed || (r == 2 || r == 3)
      waitAsserted := m.waitAsserted && (q.waitRelease == .resetOnly) } := by
  cases hq : q.waitRelease <;> match r with
    | 0 | 1 | 2 | 3 => simp [acceptedWrite, releaseWait, armRendezvous, requestTriggers, hq]

/-! Calls on devices, and what comes from outside. -/

/-- R157: a call on all devices only gives out one call for each started device, in registry order. -/
theorem callAllDevices_eq (c : DeviceCall) (s : State) :
    callAllDevices c s =
      { s with out := s.out ++ (startedDevices s.params).map fun d => .device d c } := by
  unfold callAllDevices
  generalize startedDevices s.params = l
  induction l generalizing s with
  | nil => simp
  | cons d l ih =>
    simp only [List.foldl_cons]
    rw [ih]
    simp [callDevice, State.emit]

/-- Taking a word drops it from the offer and starts with nothing given out. -/
theorem takeWord_eq_some {s t : State} {w : Btw} (h : takeWord s = some (w, t)) :
    ∃ rest, s.pending = w :: rest ∧ t = { s with pending := rest, out := [] } := by
  unfold takeWord at h
  cases hp : s.pending with
  | nil => rw [hp] at h; cases h
  | cons x rest =>
    rw [hp] at h
    simp only [Option.some.injEq, Prod.mk.injEq] at h
    exact ⟨rest, by rw [h.1], h.2.symm⟩

/-- R184: the two cases of the timebase advance. -/
theorem advanceTimebase_cases (perInt sum c0 : BitVec 64) (tb : Timebase) :
    (perInt ≤ tb.cadence + c0 ∧ advanceTimebase perInt sum c0 tb =
      { cycleTotal := tb.cycleTotal + sum, cadence := tb.cadence + c0 - perInt, intDue := true }) ∨
    (¬perInt ≤ tb.cadence + c0 ∧ advanceTimebase perInt sum c0 tb =
      { tb with cycleTotal := tb.cycleTotal + sum, cadence := tb.cadence + c0 }) := by
  unfold advanceTimebase
  by_cases h : perInt ≤ tb.cadence + c0
  · exact .inl ⟨h, by simp [h]⟩
  · exact .inr ⟨h, by simp [h]⟩

/-! What a transaction gives out. -/

/-- The byte a transaction returned, from the events it gave out. -/
theorem replyOf_of_out {s t : State} {given : List Event} (h : t.out = s.out ++ given) :
    replyOf s t = returnedByte given := by
  simp [replyOf, h]

/-- What one transaction of initiator `i` may give out: nothing, a byte, a call on a device, or both. -/
def OneReply (i : ModuleIx) (given : List Event) : Prop :=
  given = [] ∨ (∃ v, given = [.returned i v]) ∨ (∃ d c, given = [.device d c]) ∨
    ∃ d c v, given = [.device d c, .returned i v]

/-- `returnedByte` is the byte among the events of one transaction. -/
theorem OneReply.returnedByte_eq_some_iff {i : ModuleIx} {given : List Event} (h : OneReply i given)
    (v : Byte) : returnedByte given = some v ↔ Event.returned i v ∈ given := by
  rcases h with rfl | ⟨w, rfl⟩ | ⟨d, c, rfl⟩ | ⟨d, c, w, rfl⟩ <;> simp [returnedByte, eq_comm]

/-- A read decode gives out its byte, or nothing where it takes a fault. -/
theorem decodedRead_out (i : ModuleIx) (a : Addr) (s : State) :
    ∃ given, (decodedRead i a s).out = s.out ++ given ∧ OneReply i given := by
  rcases decodedRead_cases i a s with ⟨v, h⟩ | ⟨off, -, -, h⟩
  · exact ⟨_, by rw [h]; rfl, .inr (.inl ⟨v, rfl⟩)⟩
  · exact ⟨[], by rw [h]; simp, .inl rfl⟩

/-- A write decode gives out nothing. -/
theorem decodedWrite_out (i : ModuleIx) (a : Addr) (v : Byte) (s : State) :
    (decodedWrite i a v s).out = s.out := by
  rcases decodedWrite_cases i a v s with h | ⟨pa, h⟩ | ⟨off, -, -, h⟩ <;> rw [h] <;> rfl

/-- R170: one bus call gives out at most one byte, to its initiator. -/
theorem issueCall_out (i : ModuleIx) (c : BusCall) (s : State) :
    ∃ given, (issueCall i c s).out = s.out ++ given ∧ OneReply i given := by
  have nothing : ∀ {t : State}, t.out = s.out → ∃ given, t.out = s.out ++ given ∧ OneReply i given :=
    fun h => ⟨[], by simpa using h, .inl rfl⟩
  have byte : ∀ {t : State} {v : Byte}, t.out = s.out ++ [.returned i v] →
      ∃ given, t.out = s.out ++ given ∧ OneReply i given :=
    fun h => ⟨_, h, .inr (.inl ⟨_, rfl⟩)⟩
  cases c with
  | readMemory a fetch =>
    cases fetch with
    | false =>
      simp only [issueCall, mrd]
      split
      · exact decodedRead_out i a s
      · exact byte rfl
    | true =>
      simp only [issueCall, mfetch]
      split
      · obtain ⟨given, h, hg⟩ := decodedRead_out i a
          (rendezvousCheck i a (s.setMod i { s.mod i with lastFetch := a }))
        exact ⟨given, by rw [h, rendezvousCheck_eq]; rfl, hg⟩
      · exact byte rfl
  | writeMemory a v =>
    simp only [issueCall, mwr]
    split
    · exact nothing rfl
    · exact nothing (decodedWrite_out i a v s)
  | readPort p =>
    simp only [issueCall, readPort]
    split
    · exact byte rfl
    split
    · exact byte rfl
    split
    · exact byte rfl
    split
    · exact byte rfl
    simp only [iordDev]
    split
    · exact byte rfl
    · next d _ => exact ⟨[.device d (.readIo i p), .returned i (Config.deviceByte s.draws)],
        by simp [callDevice, drawDeviceByte], .inr (.inr (.inr ⟨_, _, _, rfl⟩))⟩
  | writePort p v =>
    simp only [issueCall, writePort]
    split
    · simp only [iowrCtrl]; split <;> exact nothing rfl
    split
    · simp only [iowrPaging]; split <;> exact nothing rfl
    split
    · simp only [iowrCfg]; split <;> exact nothing rfl
    split
    · exact nothing rfl
    simp only [iowrDev]
    split
    · exact nothing rfl
    · exact ⟨_, rfl, .inr (.inr (.inl ⟨_, _, rfl⟩))⟩
  | requestInterruptDataLines => exact byte rfl
  | notifyReturnFromInterrupt => exact nothing rfl

/-! Induction over a step's calls and over a tick's slots. -/

/-- What every call of module `i` keeps, relative to a fixed start, a whole step keeps. -/
theorem runCpuStep_keeps {P : State → Prop} {i : ModuleIx}
    (hcall : ∀ c s, P s → P (issueCall i c s)) (step : CpuStep) (last : Option Byte) {s : State}
    (hs : P s) : P (runCpuStep i step last s).2 := by
  induction step generalizing last s with
  | finish => exact hs
  | call c next ih =>
    simp only [runCpuStep]
    split
    · exact hcall c s hs
    · exact ih _ (hcall c s hs)
  | branch v same other ihs iho =>
    simp only [runCpuStep]
    split
    · exact ihs _ hs
    · exact iho _ hs

/-- R201: a step that starts without a fault stops exactly where a call raises one. -/
theorem runCpuStep_stops_iff (i : ModuleIx) (step : CpuStep) (last : Option Byte) (s : State)
    (hs : s.host.fault = none) :
    (runCpuStep i step last s).1 = none ↔ (runCpuStep i step last s).2.host.fault ≠ none := by
  induction step generalizing last s with
  | finish => simp [runCpuStep, hs]
  | call c next ih =>
    simp only [runCpuStep]
    split
    · next h => exact ⟨fun _ => by simpa [Option.isSome_iff_ne_none] using h, fun _ => rfl⟩
    · next h => exact ih _ _ (by simpa using h)
  | branch v same other ihs iho =>
    simp only [runCpuStep]
    split
    · exact ihs _ _ hs
    · exact iho _ _ hs

/-- What every slot keeps, the slots of a tick keep. -/
theorem runSlots_keeps {P : State → Prop} {r n : Bool}
    (hslot : ∀ i s acc, P s → P (runSlot i r n s acc).1) (l : List ModuleIx) {s : State}
    {acc : TickSums} (hs : P s) : P (runSlots r n l s acc).1 := by
  induction l generalizing s acc with
  | nil => exact hs
  | cons i rest ih =>
    simp only [runSlots]
    split
    · exact hslot i s acc hs
    · exact ih (hslot i s acc hs)

/-- What the start of a tick, every slot and the end of a tick keep, a tick keeps. -/
theorem tick_keeps {P : State → Prop} {r n : Bool} (hopen : ∀ s, P s → P (openTick r s))
    (hslot : ∀ i s acc, P s → P (runSlot i r n s acc).1)
    (hclose : ∀ s acc, P s → P (closeTick s acc)) {s : State} (hs : P s) : P (tick r n s) := by
  have h := runSlots_keeps hslot [0, 1, 2, 3] (acc := noSums) (hopen s hs)
  simp only [tick]
  split
  · exact h
  · exact hclose _ _ h

/-- What every operation of a slot keeps, a slot keeps. -/
theorem runSlot_keeps {P : State → Prop} {i : ModuleIx} {r n : Bool}
    (hreset : ∀ s, P s → P (moduleReset i s)) (hlatch : ∀ s, P s → P (consumeLatches i s))
    (hemit : ∀ e s, P s → P (s.emit e)) (hcpu : ∀ q s, P s → P { s with cpu := q })
    (hdev : ∀ c s, P s → P (callAllDevices c s)) (hcall : ∀ c s, P s → P (issueCall i c s))
    (hhalt : ∀ h s, P s → P (s.setMod i { s.mod i with haltOut := h }))
    {s : State} {acc : TickSums} (hs : P s) : P (runSlot i r n s acc).1 := by
  have hopen : P (openSlot i r s) := by
    unfold openSlot
    split
    · exact hreset s hs
    · exact hs
  have hrun := fun step last => runCpuStep_keeps hcall step last
    (hdev (.preStep i) _ (hemit (.presented i (signalsOf (openSlot i r s).cfg i ((openSlot i r s).mod i)
      (resetSignal (s.mod i) r) n)) _ (hlatch _ hopen)))
  simp only [runSlot]
  split
  · exact hrun _ _
  · exact hhalt _ _ (hcpu _ _ (hdev _ _ (hrun _ _)))

end Sys2Proof.Machine
end

