-- ==== Sys2Proof/Laws/PerInstr.lean ====
section
/-! SUPPORT. A statement about every instruction as syntax, one lemma per constructor: the fields that the
row of 30_encoding.md R112 fixes in the word of the instruction. -/

namespace Sys2Proof.Laws.RowFields

open Sys2Proof

/-- R112: the KIND column. -/
def rowKind : Instr → BitVec 3
  | .mrd _ _ => 0
  | .mfetch _ _ => 1
  | .mwr _ _ _ => 2
  | .iordCtrl _ _ => 3
  | .iowrCtrl _ _ _ => 4
  | .iordStatus _ _ => 3
  | .iowrPaging _ _ _ => 4
  | .iordCfg _ _ => 3
  | .iowrCfg _ _ _ => 4
  | .iordDev _ _ => 3
  | .iowrDev _ _ _ => 4
  | .iordMapped _ _ => 3
  | .iowrMapped _ _ _ => 4
  | .inta _ => 5
  | .reti _ => 6
  | .hostTick _ _ => 7
  | .hostSnapshot => 7
  | .hostCancel => 7

/-- R90 to R93: the words whose DATA field is not fixed at zero. -/
def rowHasData : Instr → Bool
  | .mrd _ _ => false
  | .mfetch _ _ => false
  | .mwr _ _ _ => true
  | .iordCtrl _ _ => false
  | .iowrCtrl _ _ _ => true
  | .iordStatus _ _ => false
  | .iowrPaging _ _ _ => true
  | .iordCfg _ _ => false
  | .iowrCfg _ _ _ => true
  | .iordDev _ _ => false
  | .iowrDev _ _ _ => true
  | .iordMapped _ _ => false
  | .iowrMapped _ _ _ => true
  | .inta _ => false
  | .reti _ => false
  | .hostTick _ _ => true
  | .hostSnapshot => false
  | .hostCancel => false

/-- R90 to R93, R112: MBZ is 0, KIND is the row's, and DATA is 0 in a row that writes no byte. -/
def Statement (i : Instr) : Prop :=
  btwMbz (encode i) = 0 ∧ btwKind (encode i) = rowKind i ∧
    (rowHasData i = false → btwData (encode i) = 0)

/-- A row whose word has a DATA field. -/
theorem pack_data {i : Instr} (k : ModuleIx) (c : BitVec 3) (a : BitVec 16) (d : Byte)
    (h : encode i = pack k c a d) (hk : rowKind i = c) (hd : rowHasData i = true := by rfl) :
    Statement i := by
  simp [Statement, h, hk, hd]

/-- A row whose DATA field is zero. -/
theorem pack_noData {i : Instr} (k : ModuleIx) (c : BitVec 3) (a : BitVec 16)
    (h : encode i = pack k c a 0) (hk : rowKind i = c) : Statement i := by
  simp [Statement, h, hk]

theorem mrd (i : ModuleIx) (a : Addr) : Statement (.mrd i a) :=
  pack_noData _ _ _ rfl rfl

theorem mfetch (i : ModuleIx) (a : Addr) : Statement (.mfetch i a) :=
  pack_noData _ _ _ rfl rfl

theorem mwr (i : ModuleIx) (a : Addr) (v : Byte) : Statement (.mwr i a v) :=
  pack_data _ _ _ _ rfl rfl

theorem iordCtrl (i : ModuleIx) (p : Port) : Statement (.iordCtrl i p) :=
  pack_noData _ _ _ rfl rfl

theorem iowrCtrl (i : ModuleIx) (p : Port) (v : Byte) : Statement (.iowrCtrl i p v) :=
  pack_data _ _ _ _ rfl rfl

theorem iordStatus (i : ModuleIx) (p : Port) : Statement (.iordStatus i p) :=
  pack_noData _ _ _ rfl rfl

theorem iowrPaging (i : ModuleIx) (p : Port) (v : Byte) : Statement (.iowrPaging i p v) :=
  pack_data _ _ _ _ rfl rfl

theorem iordCfg (i : ModuleIx) (p : Port) : Statement (.iordCfg i p) :=
  pack_noData _ _ _ rfl rfl

theorem iowrCfg (i : ModuleIx) (p : Port) (v : Byte) : Statement (.iowrCfg i p v) :=
  pack_data _ _ _ _ rfl rfl

theorem iordDev (i : ModuleIx) (p : Port) : Statement (.iordDev i p) :=
  pack_noData _ _ _ rfl rfl

theorem iowrDev (i : ModuleIx) (p : Port) (v : Byte) : Statement (.iowrDev i p v) :=
  pack_data _ _ _ _ rfl rfl

theorem iordMapped (i : ModuleIx) (p : Port) : Statement (.iordMapped i p) :=
  pack_noData _ _ _ rfl rfl

theorem iowrMapped (i : ModuleIx) (p : Port) (v : Byte) : Statement (.iowrMapped i p v) :=
  pack_data _ _ _ _ rfl rfl

theorem inta (i : ModuleIx) : Statement (.inta i) :=
  pack_noData _ _ _ rfl rfl

theorem reti (i : ModuleIx) : Statement (.reti i) :=
  pack_noData _ _ _ rfl rfl

theorem hostTick (r n : Bool) : Statement (.hostTick r n) :=
  pack_data _ _ _ _ rfl rfl

theorem hostSnapshot : Statement .hostSnapshot :=
  pack_noData _ _ _ rfl rfl

theorem hostCancel : Statement .hostCancel :=
  pack_noData _ _ _ rfl rfl

end Sys2Proof.Laws.RowFields
end

