-- ==== Sys2Proof/Tests/Slice0.lean ====
section
/-! SUPPORT. The model's own tests. The expected values are those of 95_test_vectors.md (named at each
test) or follow by hand from the rule named; the witnesses show, for every statement with hypotheses,
a state and operands that meet them together. -/

namespace Sys2Proof.Tests

open Sys2Proof Sys2Proof.Machine

/-! States: the power-on state with the handshake over, and small changes of it. -/

/-- The premise of 95_test_vectors.md section 2: power-on, every rbc = 0. -/
def ready : State :=
  { State.reset with mods := Four.tabulate fun i => { moduleAtReset i with rbc := 0 } }

/-- `ready` with one module changed. -/
def withMod (i : ModuleIx) (f : ModuleState → ModuleState) : State := ready.setMod i (f (ready.mod i))

/-- `ready` under other parameters. -/
def withParams (f : Params → Params) : State := { ready with params := f ready.params }

/-- A CpuCore that does one and the same step under all inputs without RESET, and accepts an INT or not. -/
def coreDoing (accepts : Bool) (doing : CpuStep) : CpuCore where
  accepts := [([], accepts)]
  steps :=
    let both := [false, true]
    both.flatMap fun a => both.flatMap fun b => both.flatMap fun c => both.map fun d =>
      { regs := [], inputs := { reset := false, nmi := a, int := b, wait := c, halt := d }, step := doing }

/-- A CpuCore that accepts no INT and issues no calls, 4 cycles a step. -/
def quietCore : CpuCore := coreDoing false (.finish [] false 4)

/-- A state in which module `i` has the CpuCore. -/
def withCore (i : ModuleIx) (c : CpuCore) (s : State) : State :=
  { s with params := { s.params with cores := s.params.cores.set i c } }

/-- A state with quiet CpuCores. -/
def quieten (s : State) : State := { s with params := { s.params with cores := Four.tabulate fun _ => quietCore } }

/-- `ready` with quiet CpuCores. -/
def quiet : State := quieten ready

/-- A device that claims the ports whose low byte is 0xFE. -/
def device (started : Bool) : Device :=
  { claims := [{ mask := 0x00FF, value := 0x00FE }], started := started }

/-- The outcome is a next state that a check accepts. -/
def nextIs (o : Host.Outcome State Fault Refusal) (check : State → Bool) : Bool :=
  match o with
  | .next t => check t
  | .fault _ => false
  | .refused _ => false

/-- The bytes a step returned. -/
def bytes (t : State) : List Byte :=
  t.out.filterMap fun e => match e with
    | .returned _ v => some v
    | .presented _ _ => none
    | .device _ _ => none
    | .tickResult _ => none
    | .snapshot _ => none

/-- The outcome returned exactly the byte. -/
def returns (o : Host.Outcome State Fault Refusal) (v : Byte) : Bool := nextIs o fun t => bytes t == [v]

/-! Well-formedness: a term that each check refuses, beside one that it accepts (R96 to R101, R112). -/

theorem test_wf_ctrl : wfInstr defaultParams (.iordCtrl 0 0x0CFF) = false ∧
    wfInstr defaultParams (.iowrCtrl 0 0x0CFF 1) = false ∧
    wfInstr defaultParams (.iowrCtrl 3 0x33FF 1) = true := by decide

theorem test_wf_paging : wfInstr defaultParams (.iordStatus 0 0x00FF) = false ∧
    wfInstr defaultParams (.iowrPaging 0 0x8000 1) = false ∧
    wfInstr defaultParams (.iowrPaging 0 0x5124 1) = true := by decide

theorem test_wf_config : wfInstr defaultParams (.iordCfg 0 0x4FFE) = false ∧
    wfInstr defaultParams (.iowrCfg 0 0x7FFD 1) = false ∧
    wfInstr defaultParams (.iowrCfg 2 0x4FFF 1) = true := by decide

theorem test_wf_device : wfInstr defaultParams (.iordDev 1 0xFFFF) = false ∧
    wfInstr defaultParams (.iowrDev 0 0x4FFF 1) = false ∧
    wfInstr defaultParams (.iowrDev 0 0xFFFF 1) = true := by decide

theorem test_wf_mapped : wfInstr defaultParams (.iordMapped 0 0x1233) = false ∧
    wfInstr defaultParams (.iowrMapped 1 0x10FF 1) = false ∧
    wfInstr defaultParams (.iowrMapped 1 0x1233 1) = true := by decide

/-! Decoding: the words of V-E1, V-E2 and V-E3, written out from the fields of R90 to R93. -/

theorem test_decode_memory : decode defaultParams 0x00123400 = .ok (.mrd 0 0x1234) ∧
    decode defaultParams 0x88800000 = .ok (.mfetch 2 0x8000) ∧
    decode defaultParams 0xD0C0005A = .ok (.mwr 3 0xC000 0x5A) := by decide

theorem test_decode_control : decode defaultParams 0x1823FF00 = .ok (.iordCtrl 0 0x23FF) ∧
    decode defaultParams 0x6010FF12 = .ok (.iowrCtrl 1 0x10FF 0x12) := by decide

theorem test_decode_paging : decode defaultParams 0x987FFD00 = .ok (.iordStatus 2 0x7FFD) ∧
    decode defaultParams 0x207FFD17 = .ok (.iowrPaging 0 0x7FFD 0x17) ∧
    decode defaultParams 0xD8512400 = .ok (.iordStatus 3 0x5124) := by decide

theorem test_decode_config : decode defaultParams 0x184FFF00 = .ok (.iordCfg 0 0x4FFF) ∧
    decode defaultParams 0xE04FFF08 = .ok (.iowrCfg 3 0x4FFF 0x08) ∧
    decode defaultParams 0x984FFF00 = .ok (.iordCfg 2 0x4FFF) := by decide

theorem test_decode_device : decode defaultParams 0x1800FE00 = .ok (.iordDev 0 0x00FE) ∧
    decode defaultParams 0x2000FE07 = .ok (.iowrDev 0 0x00FE 0x07) := by decide

theorem test_decode_mapped : decode defaultParams 0x58123300 = .ok (.iordMapped 1 0x1233) ∧
    decode defaultParams 0x6012335A = .ok (.iowrMapped 1 0x1233 0x5A) ∧
    decode defaultParams 0xD8512300 = .ok (.iordMapped 3 0x5123) := by decide

theorem test_decode_interrupt : decode defaultParams 0x28000000 = .ok (.inta 0) ∧
    decode defaultParams 0xE8000000 = .ok (.inta 3) ∧
    decode defaultParams 0x70000000 = .ok (.reti 1) := by decide

theorem test_decode_host : decode defaultParams 0x38000003 = .ok (.hostTick true true) ∧
    decode defaultParams 0x38000001 = .ok (.hostTick true false) ∧
    decode defaultParams 0x38010000 = .ok .hostSnapshot ∧
    decode defaultParams 0x38020000 = .ok .hostCancel := by decide

theorem test_decode_invalid_transaction : decode defaultParams 0x01000000 = .error .mbzNotZero ∧
    decode defaultParams 0x00000001 = .error .dataNotZero ∧
    decode defaultParams 0x08000080 = .error .dataNotZero ∧
    decode defaultParams 0x18123401 = .error .dataNotZero ∧
    decode defaultParams 0x28000100 = .error .addrNotZero ∧
    decode defaultParams 0x30000001 = .error .dataNotZero := by decide

theorem test_decode_invalid_host : decode defaultParams 0x78000000 = .error .hostInitNotZero ∧
    decode defaultParams 0x38000004 = .error .tickDataReserved ∧
    decode defaultParams 0x3800FF00 = .error .hostLowNotZero ∧
    decode defaultParams 0x38030000 = .error .hostOpUnassigned ∧
    decode defaultParams 0x38010001 = .error .dataNotZero ∧
    decode defaultParams 0x3E000000 = .error .mbzNotZero := by decide

/-! The host's interface: an offered word is the next step's. -/

theorem test_step_runs_the_offered_word :
    returns (step (State.reset.withFetchWord 32 0xD810FF00)) 0x02 = true := by decide

theorem test_step_refuses_an_invalid_word :
    step (State.reset.withFetchWord 32 0x01000000) = .refused (.invalidWord .mbzNotZero) := by rfl

theorem test_step_refuses_without_a_word : step State.reset = .refused .noWordOffered := by rfl

/-- A TICK from reset runs: the RESET of V-S1 takes no behaviour from the CpuCores. -/
theorem test_step_ticks_from_reset :
    nextIs (step (State.reset.withFetchWord 32 0x38000001)) (fun t => t.tb.cycleTotal == 12) = true := by
  decide

/-! Memory transactions. -/

/-- V-M1, first read. -/
theorem test_mrd_readback :
    returns (exec (.mrd 0 0x4000) (State.reset.setMod 0
      { moduleAtReset 0 with r := { q0 := 0, q1 := 0x11, q2 := 0x22, q3 := 0x33 } })) 0x11 = true := by
  decide

/-- V-M6: 0x84000 wraps to 0x04000. -/
theorem test_mrd_wraps :
    returns (exec (.mrd 0 0x4000) { withMod 0 (fun m => { m with r := { m.r with q0 := 7 } }) with
      ram := [(0x04000, 0x44)] }) 0x44 = true := by decide

/-- V-M2: a readback fetch at the stop address never fires. -/
theorem test_mfetch_readback_never_fires :
    nextIs (exec (.mfetch 1 0x0002) (State.reset.setMod 1 { moduleAtReset 1 with
      r := { q0 := 2, q1 := 0x11, q2 := 0x02, q3 := 0x00 }, rendezvousArmed := true }))
      (fun t => bytes t == [0x11] && !(t.mod 1).waitAsserted && (t.mod 1).lastFetch == 2) = true := by
  decide

/-- V-M9: the fetch at the armed stop address fires and returns its byte. -/
theorem test_mfetch_fires :
    nextIs (exec (.mfetch 2 0x6000) { withMod 2 (fun m => { m with
      r := { m.r with q3 := 0x60 }, rendezvousArmed := true }) with ram := [(0x56000, 0x5D)] })
      (fun t => bytes t == [0x5D] && (t.mod 2).waitAsserted) = true := by decide

/-- V-M3: module 2 writes bank 5 of its own slot. -/
theorem test_mwr_own_slot :
    nextIs (exec (.mwr 2 0x4000 0x99) ready) (fun t => t.ram == [(0x54000, 0x99)]) = true := by decide

/-- V-M4: with RAMROM = 1 a window-0 write reaches RAM bank 0. -/
theorem test_mwr_ram_over_rom :
    nextIs (exec (.mwr 2 0x0005 0x97) (withMod 2 fun m => { m with paging := 0x46 }))
      (fun t => t.ram == [(0x40005, 0x97)]) = true := by decide

/-! Port transactions. -/

/-- V-I1. -/
theorem test_iordCtrl : returns (exec (.iordCtrl 3 0x10FF) ready) 0x02 = true := by decide

/-- V-I2: R0 = 0x74 latches all three requests of module 2, the target. -/
theorem test_iowrCtrl_triggers :
    nextIs (exec (.iowrCtrl 0 0x20FF 0x74) ready) (fun t => (t.mod 2).r.q0 == 0x74 &&
      (t.mod 2).latchReset && (t.mod 2).latchNmi && (t.mod 2).latchInt && !(t.mod 0).latchNmi)
      = true := by decide

/-- V-S5: a writer with a higher index is rejected. -/
theorem test_iowrCtrl_rejected : exec (.iowrCtrl 2 0x10FF 0x00) ready = .next ready := by rfl

/-- V-I5, the second and the last row. -/
theorem test_iordStatus :
    returns (exec (.iordStatus 1 0x0000) (withMod 1 fun m => { m with lastFetch := 0xD006 })) 0xEC = true ∧
    returns (exec (.iordStatus 1 0x7FFD) (withMod 1 fun m => { m with lastFetch := 0x2EF9 })) 0x00 = true := by
  decide

/-- V-I6: bit 7 is discarded; a locked register ignores the write. -/
theorem test_iowrPaging :
    nextIs (exec (.iowrPaging 0 0x7FFD 0x85) ready) (fun t => (t.mod 0).paging == 0x05) = true ∧
    nextIs (exec (.iowrPaging 0 0x7FFD 0x07) (withMod 0 fun m => { m with paging := 0x23 }))
      (fun t => (t.mod 0).paging == 0x23) = true := by decide

/-- V-I7, 41_bus_io.md R148. -/
theorem test_iordCfg :
    returns (exec (.iordCfg 2 0x4FFF) { ready with
      cfg := { mapped := 2, ioblk := true, slvwait := false, lock := true } }) 0x86 = true := by decide

/-- V-I7: the reserved bits are discarded, and only module 0 writes. -/
theorem test_iowrCfg :
    nextIs (exec (.iowrCfg 0 0x4FFF 0xFF) ready) (fun t =>
      t.cfg == { mapped := 3, ioblk := true, slvwait := true, lock := true }) = true ∧
    nextIs (exec (.iowrCfg 2 0x4FFF 0x80) ready) (fun t => t.cfg == configAtReset) = true := by decide

/-- V-I8, and R158 for a device whose resource failed. -/
theorem test_iordDev :
    returns (exec (.iordDev 0 0x00FE) ready) 0xFF = true ∧
    returns (exec (.iordDev 0 0x00FE) (withParams fun q => { q with devices := [device false] })) 0xFF
      = true := by decide

/-- R154, R157: the write reaches the device that owns the port. -/
theorem test_iowrDev :
    nextIs (exec (.iowrDev 0 0x00FE 0x07) (withParams fun q => { q with
      devices := [device false, device true] })) (fun t => t.out == [.device 1 (.writeIo 0 0x00FE 0x07)])
      = true := by decide

/-- V-I9. -/
theorem test_iordMapped :
    nextIs (exec (.iordMapped 1 0x1233) { ready with
      cfg := { configAtReset with mapped := 2 }, ram := [(0x41233, 0x77)] })
      (fun t => bytes t == [0x77] && (t.mod 1).latchInt && !(t.mod 2).latchInt) = true := by decide

/-- V-I10: the target's WRDIS does not suppress the write. -/
theorem test_iowrMapped :
    nextIs (exec (.iowrMapped 3 0xFFFF 0xAB) { withMod 2 (fun m => { m with r := { m.r with q0 := 0x0C } }) with
      cfg := { configAtReset with mapped := 2 } })
      (fun t => t.ram == [(0x4FFFF, 0xAB)] && (t.mod 3).latchNmi && !(t.mod 2).latchNmi) = true := by decide

/-- V-I12. -/
theorem test_inta_reti : returns (exec (.inta 2) ready) 0xFF = true ∧
    exec (.reti 0) ready = .next ready := ⟨by decide, rfl⟩

/-! The tick and the host commands. -/

/-- V-S1: the first tick resets; module 0's cycles drive the cadence. -/
theorem test_hostTick_reset :
    nextIs (exec (.hostTick true false) ready) (fun t => t.tb == { cycleTotal := 12, cadence := 3, intDue := false } &&
      t.mods == State.reset.mods && t.cfg == configAtReset) = true := by decide

/-- R191: a request of module 0 reaches module 2 in the same tick, before module 2's step. -/
theorem test_hostTick_same_tick_latch :
    nextIs (exec (.hostTick false false) (withCore 0
      (coreDoing false (.call (.writePort 0x20FF 0x24) (.finish [] false 11))) quiet))
      (fun t => t.out.any (fun e => e == .presented 2
        { reset := false, nmi := true, int := false, wait := false, halt := false }) &&
        !(t.mod 2).latchNmi && t.tb.cycleTotal == 23) = true := by decide

/-- R186. -/
theorem test_hostSnapshot :
    nextIs (exec .hostSnapshot ready) (fun t => t.out == [.snapshot (snapshotOf ready)]) = true := by decide

/-- R187. -/
theorem test_hostCancel :
    nextIs (exec .hostCancel ready) (fun t => t.host.cancelRequested && t.host.fault.isNone) = true := by decide

/-- V-F1: under RAM_OVERFLOW = Fault the overflow is recorded with its values. -/
theorem test_overflow_fault :
    nextIs (exec (.mwr 0 0x4000 0x44) { withMod 0 (fun m => { m with r := { m.r with q0 := 7 } }) with
      params := { defaultParams with ramOverflow := .fault } })
      (fun t => t.host.fault == some (.ramOverflow 0 0x4000 0x84000) && t.ram == []) = true := by decide

/-! Witnesses: states and operands that meet the hypotheses of a statement together, at boundary values
where a statement has several clauses. -/

theorem witness_DecodeEncodeAgree : wfInstr defaultParams (.iowrMapped 3 0xFFFF 0xFF) = true ∧
    wfInstr defaultParams (.mrd 0 0x0000) = true := by decide

/-- The third word is TICK with DATA = 3, the greatest that R93 admits; the fourth has DATA = 4. -/
theorem witness_StepRefusesExactlyInvalidWords :
    step { ready with pending := [0x01000000] } = .refused (.invalidWord .mbzNotZero) ∧
    nextIs (step { ready with pending := [0xD0C0005A] }) (fun t => t.pending == []) = true ∧
    nextIs (step { quiet with pending := [0x38000003] }) (fun t => t.pending == []) = true ∧
    step { ready with pending := [0x38000004] } = .refused (.invalidWord .tickDataReserved) :=
  ⟨rfl, by decide, by decide, rfl⟩

theorem witness_StepRunsTheDecodedWord : (ready.withFetchWord 32 0x28000000).pending = [0x28000000] ∧
    decode ready.params 0x28000000 = .ok (.inta 0) ∧ wfInstr ready.params (.inta 0) = true := by decide

/-- The last address of window 0 and the first of window 1; the first offset past the arena. -/
theorem witness_SelectorFollowsWindowAndBank :
    inRomWindow (ready.mod 0) 0x3FFF = true ∧ inRomWindow (ready.mod 0) 0x4000 = false ∧
    offsetNumber (moduleAtReset 3) 0xFFFF < 2 ^ 19 ∧
    offsetNumber { moduleAtReset 0 with r := { q0 := 7, q1 := 0, q2 := 0, q3 := 0 }, paging := 4 } 0xC000
      = 2 ^ 19 := by decide

theorem witness_ReadbackReadsReturnMailboxes : (State.reset.mod 0).rbc ≠ 0 := by decide

theorem witness_HandshakeShowsR1R2R3 : (State.reset.mod 1).rbc = 3 ∧
    ∀ w, w = Instr.mrd 1 0x4000 ∨ w = Instr.mfetch 1 0x0001 ∨ w = Instr.mrd 1 0xFFFF →
      ∃ a, w = .mrd 1 a ∨ w = .mfetch 1 a := by
  refine ⟨by decide, ?_⟩
  rintro w (h | h | h)
  · exact ⟨_, .inl h⟩
  · exact ⟨_, .inr h⟩
  · exact ⟨_, .inl h⟩

theorem witness_RomWindowReads : (ready.mod 0).rbc = 0 ∧ inRomWindow (ready.mod 0) 0x3FFF = true ∧
    ((withMod 0 fun m => { m with paging := 0x10 }).mod 0).paging.getLsbD 4 = true ∧
    inRomWindow ((withMod 0 fun m => { m with paging := 0x10 }).mod 0) 0x0000 = true := by decide

theorem witness_RamReads : (ready.mod 3).rbc = 0 ∧ inRomWindow (ready.mod 3) 0x4000 = false ∧
    ready.params.ramOverflow = .wrap ∧
    (withParams fun q => { q with ramOverflow := .fault }).params.ramOverflow ≠ .wrap ∧
    offsetNumber (((withParams fun q => { q with ramOverflow := .fault }).setMod 3
      { moduleAtReset 3 with rbc := 0, paging := 7 }).mod 3) 0xFFFF = 2 ^ 19 - 1 := by decide

theorem witness_FetchIsReadWithRecord : (ready.mod 2).rbc = 0 := by decide

/-- A module that waits already, while another instruction of it runs. -/
theorem witness_RendezvousDetection : (ready.mod 2).rbc = 0 ∧ (State.reset.mod 2).rbc ≠ 0 ∧
    initiator (.reti 2) = some 2 ∧ (∀ b, Instr.reti 2 ≠ .mfetch 2 b) ∧
    exec (.reti 2) (withMod 2 fun m => { m with waitAsserted := true }) =
      .next (withMod 2 fun m => { m with waitAsserted := true }) ∧
    ((withMod 2 fun m => { m with waitAsserted := true }).mod 2).waitAsserted = true :=
  ⟨by decide, by decide, rfl, by simp, rfl, by decide⟩

theorem witness_WriteDisableSuppressesWrites : ready.params.r0Layout.wrdis = 3 ∧
    (((withMod 1 fun m => { m with r := { m.r with q0 := 0x0A } }).mod 1).r.get 0).getLsbD 3 = true := by
  decide

theorem witness_RomWindowWritesIgnored : inRomWindow (ready.mod 0) 0x3FFF = true := by decide

theorem witness_RamWriteStoresOneByte : ready.ram.wf = true ∧
    wrdis ready.params (ready.mod 2) = false ∧ memTarget ready.params (ready.mod 2) 0x8001 = .ram 0x48001 := by
  decide

/-- Module 0 with BANKOFS = 7 and PAGE = 4: 0xC000 is the first address that overflows. -/
def overflowing : State := { withMod 0 (fun m => { m with r := { m.r with q0 := 7 }, paging := 4 }) with
  params := { defaultParams with ramOverflow := .fault } }

theorem witness_OverflowRecordsTheFault : overflowing.params.ramOverflow = .fault ∧
    inRomWindow (overflowing.mod 0) 0xC000 = false ∧ 2 ^ 19 ≤ offsetNumber (overflowing.mod 0) 0xC000 ∧
    wrdis overflowing.params (overflowing.mod 0) = false ∧ (overflowing.mod 0).rbc = 0 := by decide

/-- Module 1 with BANKOFS = 4 shares module 2's RAM. -/
theorem witness_StoreIsSeenByTheNextRead : ready.ram.wf = true ∧
    wrdis ready.params (ready.mod 2) = false ∧ memTarget ready.params (ready.mod 2) 0x8123 = .ram 0x48123 ∧
    ((withMod 1 fun m => { m with r := { m.r with q0 := 4 } }).mod 1).rbc = 0 ∧
    memTarget ready.params ((withMod 1 fun m => { m with r := { m.r with q0 := 4 } }).mod 1) 0x8123
      = .ram 0x48123 ∧
    ∃ u, exec (.mwr 2 0x8123 0x5A) (withMod 1 fun m => { m with r := { m.r with q0 := 4 } }) = .next u :=
  ⟨by decide, by decide, by decide, by decide, by decide, _, rfl⟩

theorem witness_ControlReadReturnsRegister : ready.params.ctrlPortForm = .targetModule := by decide

theorem witness_LiteralControlPortsReachOwnRegisters :
    (withParams fun q => { q with ctrlPortForm := .literal }).params.ctrlPortForm = .literal ∧
    (withParams fun q => { q with ctrlPortForm := .literal }).cfg.lock = false := by decide

theorem witness_AcceptedControlWrite : ready.params.ctrlPortForm = .targetModule ∧
    ready.params.r0Layout = r0LayoutDefault ∧ ready.cfg.lock = false ∧ (2 : ModuleIx) ≤ 2 := by decide

/-- The least writer that is rejected, the greatest that is accepted, and a locked board. -/
theorem witness_ControlWriteRights : ready.params.ctrlPortForm = .targetModule ∧
    ready.cfg.lock = false ∧ (2 : ModuleIx).val ≤ (2 : ModuleIx).val ∧ (1 : ModuleIx).val < (2 : ModuleIx).val ∧
    ({ ready with cfg := { configAtReset with lock := true } } : State).cfg.lock = true := by decide

theorem witness_StatusByteBits : ready.params.statusMap = statusMapDefault := by decide

theorem witness_PagingWrite : (ready.mod 0).paging.getLsbD 5 = false ∧
    ((withMod 0 fun m => { m with paging := 0x20 }).mod 0).paging.getLsbD 5 = true := by decide

theorem witness_ConfigWrite : ready.params.cfgLayout = cfgLayoutDefault ∧ (1 : ModuleIx) ≠ 0 := by decide

theorem witness_ConfigRead : ready.params.cfgLayout = cfgLayoutDefault := by decide

theorem witness_ConfigReadBack : ready.params.cfgLayout = cfgLayoutDefault ∧
    ∃ t, exec (.iowrCfg 0 0x4FFF 0xFF) ready = .next t := ⟨by decide, _, rfl⟩

/-- A registry whose one device did not start, and one whose device started. -/
def withDevice (started : Bool) : State := withParams fun q => { q with devices := [device started] }

theorem witness_DeviceRead :
    (∀ d ∈ (withDevice false).params.devices, d.started = true → ∀ c ∈ d.claims, 0x00FE &&& c.mask ≠ c.value) ∧
    (∃ d ∈ (withDevice true).params.devices, d.started = true ∧ ∃ c ∈ d.claims, 0x00FE &&& c.mask = c.value) := by
  decide

theorem witness_DeviceWrite :
    (∀ d ∈ (withDevice true).params.devices, d.started = true → ∀ c ∈ d.claims, 0x00FF &&& c.mask ≠ c.value) ∧
    (∃ d ∈ (withDevice true).params.devices, d.started = true ∧ ∃ c ∈ d.claims, 0x12FE &&& c.mask = c.value) := by
  decide

theorem witness_MappedWrite : ready.ram.wf = true := by decide

/-- The example of R85: port 0x8123 with R0 = 4 is module 2's address 0x8123. -/
theorem witness_MappedWriteSeenByTarget :
    let s : State := { ready with cfg := { configAtReset with mapped := 2 } }
    s.ram.wf = true ∧ (s.mod s.cfg.mapped).rbc = 0 ∧ inRomWindow (s.mod s.cfg.mapped) 0x8123 = false ∧
    offsetNumber (s.mod s.cfg.mapped) 0x8123 = mappedNumber (s.mod s.cfg.mapped) 0x8123 ∧
    ∃ u, exec (.iowrMapped 1 0x8123 0xA5) s = .next u :=
  ⟨by decide, by decide, by decide, by decide, _, rfl⟩

theorem witness_LowerIndexedModulesUntouched : initiator (.iowrCtrl 3 0x30FF 0x0E) = some 3 ∧
    (∃ t, exec (.iowrCtrl 3 0x30FF 0x0E) ready = .next t) ∧ (2 : ModuleIx) < 3 := ⟨rfl, ⟨_, rfl⟩, by decide⟩

theorem witness_PagingAndFetchStateAreOwn : initiator (.iowrPaging 1 0x7FFD 0x07) = some 1 ∧
    (∃ t, exec (.iowrPaging 1 0x7FFD 0x07) ready = .next t) ∧ (0 : ModuleIx) ≠ 1 := ⟨rfl, ⟨_, rfl⟩, by decide⟩

theorem witness_LockFreezesControlState :
    let s : State := { ready with cfg := { configAtReset with lock := true } }
    s.cfg.lock = true ∧ initiator (.iowrCtrl 0 0x01FF 0x99) = some 0 ∧
    ∃ t, exec (.iowrCtrl 0 0x01FF 0x99) s = .next t := ⟨by decide, rfl, _, rfl⟩

theorem witness_ControlRegistersChangeByRightOnly : initiator (.iowrCtrl 0 0x31FF 0x99) = some 0 ∧
    nextIs (exec (.iowrCtrl 0 0x31FF 0x99) ready) (fun t => (t.mod 3).r != (ready.mod 3).r) = true := by
  decide

theorem witness_TransactionFrame : initiator (.inta 1) = some 1 ∧ (∃ t, exec (.inta 1) ready = .next t) ∧
    (1 : ModuleIx) ≠ 0 ∧ (∀ a v, Instr.inta 1 ≠ .mwr 1 a v) ∧ (∀ p v, Instr.inta 1 ≠ .iowrMapped 1 p v) :=
  ⟨rfl, ⟨_, rfl⟩, by decide, by simp, by simp⟩

theorem witness_TickRefusedAfterFaultOrCancel :
    ({ ready with host := { cancelRequested := false, fault := some (.ramOverflow 0 0xC000 (2 ^ 19)) } }
      : State).host.fault = some (.ramOverflow 0 0xC000 (2 ^ 19)) ∧
    ({ ready with host := { cancelRequested := true, fault := none } } : State).host.fault = none ∧
    ({ ready with host := { cancelRequested := true, fault := none } } : State).host.cancelRequested = true := by
  decide

/-- Module 0's CpuCore reads the first address that overflows. -/
def faulting : State :=
  withCore 0 (coreDoing false (.call (.readMemory 0xC000 false) (.finish [] false 7))) (quieten overflowing)

/-- Ticks that end without a fault and with one. -/
theorem witness_TickCompletes : quiet.host.fault = none ∧ quiet.host.cancelRequested = false ∧
    nextIs (exec (.hostTick false false) quiet) (fun t => t.host.fault == none) = true ∧
    nextIs (exec (.hostTick false false) faulting) (fun t => t.host.fault != none) = true := by decide

theorem witness_TickStepsEachModuleOnceInOrder :
    nextIs (exec (.hostTick false true) quiet) (fun t => t.host.fault == none &&
      t.out.filterMap presentedTo == [0, 1, 2, 3]) = true ∧
    nextIs (exec (.hostTick true false) quiet) (fun t => t.host.fault == none) = true ∧
    nextIs (exec (.hostTick false false) faulting) (fun t => t.host.fault != none &&
      t.out.filterMap presentedTo == [0]) = true := by decide

theorem witness_BoardResetTick : ready.host.fault = none ∧ ready.host.cancelRequested = false := by decide

/-- The two sides of the cadence boundary: 70904 + 4 cycles reach it, 70903 + 4 do not. -/
theorem witness_QuietTick : quiet.host.fault = none ∧ quiet.host.cancelRequested = false ∧
    quiet.cfg.slvwait = false ∧
    (∀ k, coreStep quiet.params k (quiet.cpu.get k)
        { reset := false, nmi := false, int := false, wait := false, halt := (quiet.mod k).haltOut } =
          .finish [] false 4 ∧
      (quiet.mod k).latchReset = false ∧ (quiet.mod k).latchNmi = false ∧ (quiet.mod k).latchInt = false ∧
      (quiet.mod k).waitAsserted = false) ∧
    quiet.params.cyclesPerInt = (70904 : BitVec 64) + (4 : BitVec 32).setWidth 64 ∧
    ¬quiet.params.cyclesPerInt ≤ (70903 : BitVec 64) + (4 : BitVec 32).setWidth 64 := by decide

/-- All four modules wait. -/
def deadlocked : State :=
  { ready with mods := Four.tabulate fun i => { moduleAtReset i with rbc := 0, waitAsserted := true } }

theorem witness_RendezvousDeadlockGoesOn : deadlocked.host.fault = none ∧
    deadlocked.host.cancelRequested = false ∧ ∀ k, (deadlocked.mod k).waitAsserted = true ∧
      (deadlocked.mod k).latchReset = false ∧ (deadlocked.mod k).latchNmi = false ∧
      (deadlocked.mod k).latchInt = false := by decide

/-- A reset from the local latch, with no board reset. -/
theorem witness_ResetSlot : ready.host.fault = none ∧
    (false || ((withMod 2 fun m => { m with latchReset := true }).mod 2).latchReset) = true := by decide

/-- A slot whose step issues no call consumes a pending NMI, also under RESET. -/
theorem witness_SlotPresentsTheRoutedSignals :
    issuesNoCall (cpuAnswer quiet.params 1 (quiet.cpu.get 1)
      { reset := false, nmi := true, int := false, wait := false, halt := false }) = true ∧
    issuesNoCall (cpuAnswer ready.params 1 (ready.cpu.get 1)
      { reset := true, nmi := false, int := false, wait := false, halt := false }) = true := by decide

/-- A step that reads window 1 and issues an INTA only where it read 0x42. -/
def asking : CpuStep :=
  .call (.readMemory 0x4000 false)
    (.branch 0x42 (.call .requestInterruptDataLines (.finish [1] true 9)) (.finish [2] false 5))

/-- A waiting module 0 whose CpuCore accepts INT, with 0x42 where its step reads. -/
def askingState : State := withCore 0 (coreDoing true asking)
  { quiet.setMod 0 { quiet.mod 0 with waitAsserted := true, latchNmi := true } with ram := [(0x14000, 0x42)] }

/-- The reply of the first call leads the step to its second call. -/
theorem witness_StepRun_follows_the_reply : ∃ u,
    StepRun 0 asking none askingState [.readMemory 0x4000 false, .requestInterruptDataLines]
      { regs := [1], halt := true, cycles := 9 } u := by
  refine ⟨_, .call _ _ _ (some 0x42) _ _ _ _ _ _ rfl rfl rfl ⟨[.returned 0 0x42], rfl, by simp [eq_comm]⟩
    (.same _ _ _ _ _ _ _ (.call _ _ _ (some 0xFF) _ _ _ _ _ _ rfl rfl rfl
      ⟨[.returned 0 0xFF], rfl, by simp [eq_comm]⟩ (.finish _ _ _ _ _)))⟩

/-- An NMI and an accepted INT of a waiting module, and a module that neither waits nor has a request. -/
theorem witness_SlotRunsTheCpuCoresStep :
    askingState.host.fault = none ∧ (askingState.mod 0).latchReset = false ∧
    (askingState.mod 0).waitAsserted = true ∧ (askingState.mod 0).latchNmi = true ∧
    coreAcceptsInt askingState.params 0 (askingState.cpu.get 0) = true ∧
    (∀ nmi int, coreStep askingState.params 0 (askingState.cpu.get 0)
      { reset := false, nmi := nmi, int := int, wait := true, halt := false } = asking) ∧
    (quiet.mod 0).waitAsserted = false ∧
    (runSlot 0 false false askingState noSums).1.host.fault = none ∧
    (runSlot 0 false false askingState noSums).1.cpu.get 0 = [1] ∧
    ((runSlot 0 false false askingState noSums).1.mod 0).waitAsserted = true := by decide

/-- A module held by SLVWAIT, while IOBLK withholds the external INT; and a waiting module whose CPU does
not accept the INT that is latched for it. -/
theorem witness_WaitSlot :
    let s : State := { ready with cfg := { mapped := 0, ioblk := true, slvwait := true, lock := false } }
    let u := quiet.setMod 0 { quiet.mod 0 with waitAsserted := true, latchInt := true }
    s.host.fault = none ∧ (s.mod 1).latchReset = false ∧ (s.mod 1).latchNmi = false ∧
    (s.mod 1).latchInt = false ∧ (true = false ∨ ((1 : ModuleIx) ≠ 0 ∧ s.cfg.ioblk = true)) ∧
    ((s.mod 1).waitAsserted = true ∨ ((1 : ModuleIx) ≠ 0 ∧ s.cfg.slvwait = true)) ∧
    (u.mod 0).waitAsserted = true ∧ (u.mod 0).latchReset = false ∧ (u.mod 0).latchNmi = false ∧
    coreAcceptsInt u.params 0 (u.cpu.get 0) = false := by decide

theorem witness_SlotReportsTheHaltEdge : ∃ t sums, runSlot 1 false false quiet noSums = (t, sums) ∧
    t.host.fault = none := ⟨_, _, rfl, by decide⟩

/-- The second module has an INT latched that its CPU does not accept. -/
theorem witness_HaltedModuleStaysHalted :
    let s := quiet.setMod 1 { quiet.mod 1 with haltOut := true }
    let u := quiet.setMod 1 { quiet.mod 1 with haltOut := true, latchInt := true }
    (∃ t sums, runSlot 1 false false s noSums = (t, sums) ∧ t.host.fault = none) ∧
    (∃ t sums, runSlot 1 false true u noSums = (t, sums) ∧ t.host.fault = none) ∧
    (s.mod 1).haltOut = true ∧ (s.mod 1).latchReset = false ∧ (s.mod 1).latchNmi = false ∧
    (s.mod 1).latchInt = false ∧ coreAcceptsInt u.params 1 (u.cpu.get 1) = false :=
  ⟨⟨_, _, rfl, by decide⟩, ⟨_, _, rfl, by decide⟩, by decide, by decide, by decide, by decide, by decide⟩

/-- A step that stores a byte, from a state in canonical form. -/
theorem witness_StepKeepsArraysWellFormed : arraysWf { ready with ram := [(0x7FFFF, 1)] } = true ∧
    ∃ t, step (State.withFetchWord { ready with ram := [(0x7FFFF, 1)] } 32 0x90400099) = .next t :=
  ⟨by decide, _, rfl⟩

theorem witness_StepKeepsRomAndParameters :
    ∃ t, step (State.withFetchWord ready 32 0x90000599) = .next t := ⟨_, rfl⟩

theorem witness_StepKeepsFaultLegal : faultLegal (State.withFetchWord overflowing 32 0x00C00000) = true ∧
    nextIs (step (State.withFetchWord overflowing 32 0x00C00000)) (fun t => t.host.fault.isSome) = true := by
  decide

theorem witness_PagingLockHoldsUntilReset :
    ((State.withFetchWord (withMod 0 fun m => { m with paging := 0x23 }) 32 0x207FFD07).mod 0).paging.getLsbD 5
      = true ∧
    ∃ t, step (State.withFetchWord (withMod 0 fun m => { m with paging := 0x23 }) 32 0x207FFD07) = .next t :=
  ⟨by decide, _, rfl⟩

theorem witness_ReadbackCounterOnlyDecreases :
    ∃ t, step (State.withFetchWord State.reset 32 0x48000000) = .next t := ⟨_, rfl⟩

theorem witness_HostMarksAreNeverCleared :
    let s : State := { overflowing with host := { cancelRequested := true, fault := some (.ramOverflow 0 0xC000 (2 ^ 19)) } }
    s.host.cancelRequested = true ∧ s.host.fault ≠ none ∧
    ∃ t, step (State.withFetchWord s 32 0x38010000) = .next t := ⟨by decide, by decide, _, rfl⟩

end Sys2Proof.Tests
end

section
/-! PROOFS. The statements about a step as a whole and about the slot of a module in a tick: a step is `exec` of
the decoded word; no step changes ROM or the parameters; a slot performs the CpuCore's own step. -/

namespace Sys2Proof.Machine

/-! A step is `exec` of the word it takes (00_scope.md R16; 30_encoding.md R113). -/

theorem takeWord_cons {s : State} {w : Btw} {rest : List Btw} (h : s.pending = w :: rest) :
    takeWord s = some (w, { s with pending := rest, out := [] }) := by
  simp [takeWord, h]

/-- Where a step answers a next state, it is that of `exec` on the next offered word's instruction. -/
theorem step_eq_next {s t : State} (h : step s = .next t) : ∃ w rest ins,
    s.pending = w :: rest ∧ decode s.params w = .ok ins ∧
    exec ins { s with pending := rest, out := [] } = .next t := by
  unfold step at h
  split at h
  · cases h
  · next w u hw =>
    obtain ⟨rest, hp, rfl⟩ := takeWord_eq_some hw
    split at h
    · next ins hd => exact ⟨w, rest, ins, hp, hd, h⟩
    · cases h

/-- Settles O5: `step` on a queue that is not empty, with the decoder's answer put in. -/
theorem stepRunsTheDecodedWord : Obligations.StepRunsTheDecodedWord := by
  intro s w rest ins hp hd _
  simp [step, takeWord_cons hp, hd]

/-! The frame of one bus transaction. -/

/-- What no bus transaction changes: the timebase, ROM, the parameters, the offered words and the CPUs'
register states. -/
def BusFrame (s t : State) : Prop :=
  t = { s with
    mods := t.mods, cfg := t.cfg, host := t.host, ram := t.ram, draws := t.draws, out := t.out }

theorem BusFrame.cpu_eq {s t : State} (h : BusFrame s t) : t.cpu = s.cpu := by rw [h]
theorem BusFrame.params_eq {s t : State} (h : BusFrame s t) : t.params = s.params := by rw [h]
theorem BusFrame.rom0_eq {s t : State} (h : BusFrame s t) : t.rom0 = s.rom0 := by rw [h]
theorem BusFrame.rom1_eq {s t : State} (h : BusFrame s t) : t.rom1 = s.rom1 := by rw [h]

theorem BusFrame.trans {s t u : State} (h : BusFrame s t) (h' : BusFrame t u) : BusFrame s u := by
  unfold BusFrame at *
  rw [h', h]

theorem decodedRead_busFrame (i : ModuleIx) (a : Addr) (s : State) :
    BusFrame s (decodedRead i a s) := by
  rcases decodedRead_cases i a s with ⟨v, h⟩ | ⟨off, -, -, h⟩ <;> rw [h] <;> rfl

theorem rendezvousCheck_busFrame (i : ModuleIx) (a : Addr) (s : State) :
    BusFrame s (rendezvousCheck i a s) := by
  rw [rendezvousCheck_eq]
  rfl

theorem mrd_busFrame (i : ModuleIx) (a : Addr) (s : State) : BusFrame s (mrd i a s) := by
  unfold mrd
  split
  · exact decodedRead_busFrame i a s
  · rfl

/-- R122, R123: the fetch record and the rendezvous check change the initiator's module only. -/
theorem mfetch_busFrame (i : ModuleIx) (a : Addr) (s : State) : BusFrame s (mfetch i a s) := by
  have hrecord : BusFrame s (s.setMod i { s.mod i with lastFetch := a }) := rfl
  simp only [mfetch]
  split
  · exact hrecord.trans ((rendezvousCheck_busFrame i a _).trans (decodedRead_busFrame i a _))
  · exact hrecord.trans rfl

theorem mwr_busFrame (i : ModuleIx) (a : Addr) (v : Byte) (s : State) : BusFrame s (mwr i a v s) := by
  unfold mwr
  split
  · rfl
  · rcases decodedWrite_cases i a v s with h | ⟨pa, h⟩ | ⟨off, -, -, h⟩ <;> rw [h] <;> rfl

theorem iowrCtrl_busFrame (i : ModuleIx) (p : Port) (v : Byte) (s : State) :
    BusFrame s (iowrCtrl i p v s) := by
  unfold iowrCtrl
  split <;> rfl

theorem iowrPaging_busFrame (i : ModuleIx) (v : Byte) (s : State) : BusFrame s (iowrPaging i v s) := by
  unfold iowrPaging
  split <;> rfl

theorem iowrCfg_busFrame (i : ModuleIx) (v : Byte) (s : State) : BusFrame s (iowrCfg i v s) := by
  unfold iowrCfg
  split <;> rfl

theorem iordDev_busFrame (i : ModuleIx) (p : Port) (s : State) : BusFrame s (iordDev i p s) := by
  unfold iordDev
  split <;> rfl

theorem iowrDev_busFrame (i : ModuleIx) (p : Port) (v : Byte) (s : State) :
    BusFrame s (iowrDev i p v s) := by
  unfold iowrDev
  split <;> rfl

/-- Every transaction has the frame; a host command has no initiator. -/
theorem exec_busFrame {s t : State} {ins : Instr} {i : ModuleIx} (hi : initiator ins = some i)
    (h : exec ins s = .next t) : BusFrame s t := by
  cases ins <;> cases hi <;> cases h
  case mrd => exact mrd_busFrame _ _ _
  case mfetch => exact mfetch_busFrame _ _ _
  case mwr => exact mwr_busFrame _ _ _ _
  case iowrCtrl => exact iowrCtrl_busFrame _ _ _ _
  case iowrPaging => exact iowrPaging_busFrame _ _ _
  case iowrCfg => exact iowrCfg_busFrame _ _ _
  case iordDev => exact iordDev_busFrame _ _ _
  case iowrDev => exact iowrDev_busFrame _ _ _ _
  case iordCtrl | iordStatus | iordCfg | iordMapped | iowrMapped | inta | reti => rfl

/-! A CpuCore's bus call is the word that spells it (R170; R140, R141 for the ports). -/

theorem decode_pack (q : Params) (i : ModuleIx) (k : BitVec 3) (a : BitVec 16) (d : Byte) :
    decode q (pack i k a d) = decodeFields q i k a d := by
  simp [decode]

theorem exec_dispatchRead (i : ModuleIx) (p : Port) (s : State) :
    exec (dispatchRead s.params i p) s = .next (readPort i p s) := by
  unfold dispatchRead readPort
  split_ifs <;> rfl

theorem exec_dispatchWrite (i : ModuleIx) (p : Port) (v : Byte) (s : State) :
    exec (dispatchWrite s.params i p v) s = .next (writePort i p v s) := by
  unfold dispatchWrite writePort
  split_ifs <;> rfl

theorem initiator_dispatchRead (q : Params) (i : ModuleIx) (p : Port) :
    initiator (dispatchRead q i p) = some i := by
  unfold dispatchRead
  split_ifs <;> rfl

theorem initiator_dispatchWrite (q : Params) (i : ModuleIx) (p : Port) (v : Byte) :
    initiator (dispatchWrite q i p v) = some i := by
  unfold dispatchWrite
  split_ifs <;> rfl

/-- The word of a call decodes to a transaction of the same module, and `exec` of it is the call. -/
theorem exec_encodeCall (s : State) (i : ModuleIx) (c : BusCall) : ∃ ins,
    decode s.params (encodeCall i c) = .ok ins ∧ initiator ins = some i ∧
    exec ins s = .next (issueCall i c s) := by
  cases c with
  | readMemory a fetch =>
    cases fetch with
    | false => exact ⟨.mrd i a, decode_pack .., rfl, rfl⟩
    | true => exact ⟨.mfetch i a, decode_pack .., rfl, rfl⟩
  | writeMemory a v => exact ⟨.mwr i a v, decode_pack .., rfl, rfl⟩
  | readPort p =>
    exact ⟨_, decode_pack .., initiator_dispatchRead s.params i p, exec_dispatchRead i p s⟩
  | writePort p v =>
    exact ⟨_, decode_pack .., initiator_dispatchWrite s.params i p v, exec_dispatchWrite i p v s⟩
  | requestInterruptDataLines => exact ⟨.inta i, decode_pack .., rfl, rfl⟩
  | notifyReturnFromInterrupt => exact ⟨.reti i, decode_pack .., rfl, rfl⟩

theorem issueCall_busFrame (i : ModuleIx) (c : BusCall) (s : State) :
    BusFrame s (issueCall i c s) := by
  obtain ⟨ins, -, hi, h⟩ := exec_encodeCall s i c
  exact exec_busFrame hi h

/-- What performing a call's word leads to is what issuing the call leads to. -/
theorem eq_issueCall_of_exec {s t : State} {i : ModuleIx} {c : BusCall} {ins : Instr}
    (word : decode s.params (encodeCall i c) = .ok ins) (performed : exec ins s = .next t) :
    t = issueCall i c s := by
  obtain ⟨ins', hd, -, he⟩ := exec_encodeCall s i c
  cases hd.symm.trans word
  cases he.symm.trans performed
  rfl

/-! No step changes ROM or the parameters (R49, R67; log entry 2). -/

/-- Both ROM images and the parameters are those of `s`. -/
def SameFixed (s t : State) : Prop := t.rom0 = s.rom0 ∧ t.rom1 = s.rom1 ∧ t.params = s.params

theorem BusFrame.sameFixed {s t : State} (h : BusFrame s t) : SameFixed s t :=
  ⟨h.rom0_eq, h.rom1_eq, h.params_eq⟩

theorem SameFixed.trans {s t u : State} : SameFixed s t → SameFixed t u → SameFixed s u
  | ⟨hrom0, hrom1, hparams⟩, ⟨hrom0', hrom1', hparams'⟩ =>
    ⟨hrom0'.trans hrom0, hrom1'.trans hrom1, hparams'.trans hparams⟩

theorem callAllDevices_sameFixed (c : DeviceCall) (s : State) : SameFixed s (callAllDevices c s) := by
  rw [callAllDevices_eq]
  exact ⟨rfl, rfl, rfl⟩

theorem openTick_sameFixed (r : Bool) (s : State) : SameFixed s (openTick r s) := by
  cases r with
  | false => exact ⟨rfl, rfl, rfl⟩
  | true => exact callAllDevices_sameFixed .reset { s with cfg := configAtReset }

theorem runSlot_sameFixed {s t : State} (i : ModuleIx) (r n : Bool) (acc : TickSums)
    (h : SameFixed s t) : SameFixed s (runSlot i r n t acc).1 :=
  runSlot_keeps (P := SameFixed s) (fun _ h => h) (fun _ h => h) (fun _ _ h => h) (fun _ _ h => h)
    (fun c u h => h.trans (callAllDevices_sameFixed c u))
    (fun c u h => h.trans (issueCall_busFrame i c u).sameFixed) (fun _ _ h => h) h

theorem tick_sameFixed (r n : Bool) (s : State) : SameFixed s (tick r n s) :=
  tick_keeps (P := SameFixed s) (fun u h => h.trans (openTick_sameFixed r u))
    (fun i _ acc h => runSlot_sameFixed i r n acc h) (fun _ _ h => h) ⟨rfl, rfl, rfl⟩

/-- R176: a TICK that is not refused is `tick`. -/
theorem execHostTick_eq_next {r n : Bool} {s t : State} (h : execHostTick r n s = .next t) :
    t = tick r n s := by
  unfold execHostTick at h
  split at h
  · cases h
  · split at h <;> cases h
    rfl

theorem exec_sameFixed {s t : State} (ins : Instr) (h : exec ins s = .next t) : SameFixed s t := by
  cases ins
  case hostTick r n => rw [execHostTick_eq_next h]; exact tick_sameFixed r n s
  case hostSnapshot | hostCancel => cases h; exact ⟨rfl, rfl, rfl⟩
  all_goals exact (exec_busFrame rfl h).sameFixed

/-- Settles O55: a step is `exec` of one instruction, and each keeps ROM and the parameters: a transaction
by its frame, a tick because the operations of its slots do. -/
theorem stepKeepsRomAndParameters : Obligations.StepKeepsRomAndParameters := by
  intro s t h
  obtain ⟨w, rest, ins, -, -, he⟩ := step_eq_next h
  obtain ⟨hrom0, hrom1, hparams⟩ := exec_sameFixed ins he
  exact ⟨hrom0, hrom1, hparams⟩

/-! A run of a CpuCore's step (`StepRun`) is what `runCpuStep` computes, where no call raises a fault. -/

/-- The answer of a transaction is the reply by which `runCpuStep` goes on. -/
theorem replyOf_eq_of_answered {s : State} {i : ModuleIx} {c : BusCall} {answer : Option Byte}
    (h : Answered i s (issueCall i c s) answer) : replyOf s (issueCall i c s) = answer := by
  obtain ⟨given, hout, hgiven⟩ := h
  obtain ⟨given', hout', hone⟩ := issueCall_out i c s
  obtain rfl : given = given' := List.append_cancel_left (hout.symm.trans hout')
  rw [replyOf_of_out hout]
  exact Option.ext fun v => (hone.returnedByte_eq_some_iff v).trans (hgiven v).symm

theorem answered_replyOf (i : ModuleIx) (c : BusCall) (s : State) :
    Answered i s (issueCall i c s) (replyOf s (issueCall i c s)) := by
  obtain ⟨given, hout, hone⟩ := issueCall_out i c s
  refine ⟨given, hout, fun v => ?_⟩
  rw [replyOf_of_out hout]
  exact hone.returnedByte_eq_some_iff v

theorem StepRun.runCpuStep_eq {i : ModuleIx} {step : CpuStep} {last : Option Byte} {s u : State}
    {calls : List BusCall} {e : StepEnd} (h : StepRun i step last s calls e u) :
    runCpuStep i step last s = (some e, u) := by
  induction h with
  | finish => rfl
  | call c next last answer s t u ins calls e word performed noFault answered rest ih =>
    obtain rfl := eq_issueCall_of_exec word performed
    simpa [runCpuStep, noFault, replyOf_eq_of_answered answered] using ih
  | same v same other s u calls e rest ih => simpa [runCpuStep] using ih
  | other v same other last s u calls e differs rest ih => simpa [runCpuStep, differs] using ih

/-- A run issues its calls one after the other, in order. -/
theorem StepRun.eq_foldl {i : ModuleIx} {step : CpuStep} {last : Option Byte} {s u : State}
    {calls : List BusCall} {e : StepEnd} (h : StepRun i step last s calls e u) :
    u = calls.foldl (fun v c => issueCall i c v) s := by
  induction h with
  | finish => rfl
  | call c next last answer s t u ins calls e word performed noFault answered rest ih =>
    rw [ih, eq_issueCall_of_exec word performed, List.foldl_cons]
  | same v same other s u calls e rest ih => exact ih
  | other v same other last s u calls e differs rest ih => exact ih

/-- A step that `runCpuStep` completes has a run. -/
theorem exists_stepRun {i : ModuleIx} {step : CpuStep} {last : Option Byte} {s u : State}
    {e : StepEnd} (h : runCpuStep i step last s = (some e, u)) :
    ∃ calls, StepRun i step last s calls e u := by
  induction step generalizing last s with
  | finish regs halt cycles =>
    cases h
    exact ⟨[], .finish ..⟩
  | call c next ih =>
    simp only [runCpuStep] at h
    split at h
    · cases h
    · next hf =>
      obtain ⟨calls, hrest⟩ := ih h
      obtain ⟨ins, hd, -, he⟩ := exec_encodeCall s i c
      exact ⟨c :: calls, .call _ _ _ _ _ _ _ _ _ _ hd he (by simpa using hf)
        (answered_replyOf i c s) hrest⟩
  | branch v same other ihs iho =>
    simp only [runCpuStep] at h
    split at h
    · next hl =>
      obtain ⟨calls, hrest⟩ := ihs h
      subst hl
      exact ⟨calls, .same _ _ _ _ _ _ _ hrest⟩
    · next hl =>
      obtain ⟨calls, hrest⟩ := iho h
      exact ⟨calls, .other _ _ _ _ _ _ _ _ hl hrest⟩

/-- No call of a step touches a CPU's register state or the parameters (R37; log entry 2). -/
theorem StepRun.cpu_params_eq {i : ModuleIx} {step : CpuStep} {last : Option Byte} {s u : State}
    {calls : List BusCall} {e : StepEnd} (h : StepRun i step last s calls e u) :
    u.cpu = s.cpu ∧ u.params = s.params := by
  have hkeeps := runCpuStep_keeps (P := fun t => t.cpu = s.cpu ∧ t.params = s.params)
    (fun c t ⟨hcpu, hparams⟩ => ⟨(issueCall_busFrame i c t).cpu_eq.trans hcpu,
      (issueCall_busFrame i c t).params_eq.trans hparams⟩) step last ⟨rfl, rfl⟩
  rwa [h.runCpuStep_eq] at hkeeps

/-! The CpuCore contract where the CpuCore's own step is performed (R171, R174). -/

/-- The end of a step whose HALT output stays at 1 where `held` says that it was 1 (R174). -/
def StepEnd.keepHalt (held : Bool) (e : StepEnd) : StepEnd := { e with halt := e.halt || held }

theorem keepHalt_false (step : CpuStep) : keepHalt false step = step := by
  induction step with
  | finish => simp [keepHalt]
  | call c next ih => simp [keepHalt, ih]
  | branch v same other ihs iho => simp [keepHalt, ihs, iho]

/-- A held HALT changes only the HALT output in which a step ends. -/
theorem runCpuStep_keepHalt (i : ModuleIx) (held : Bool) (step : CpuStep) (last : Option Byte)
    (s : State) : runCpuStep i (keepHalt held step) last s =
      ((runCpuStep i step last s).1.map (StepEnd.keepHalt held), (runCpuStep i step last s).2) := by
  induction step generalizing last s with
  | finish => rfl
  | call c next ih =>
    simp only [keepHalt, runCpuStep]
    split
    · rfl
    · exact ih _ _
  | branch v same other ihs iho =>
    simp only [keepHalt, runCpuStep]
    split
    · exact ihs _ _
    · exact iho _ _

/-- R171, R174: without RESET, and with NMI, an accepted INT or no WAIT, the answer is the CpuCore's own step,
with HALT held where neither NMI nor INT is taken. -/
theorem cpuAnswer_own {q : Params} {i : ModuleIx} {regs : CpuRegs} {sig : SignalWord} {taken : Bool}
    (hreset : sig.reset = false) (htaken : taken = (sig.nmi || (sig.int && coreAcceptsInt q i regs)))
    (h : taken = true ∨ sig.wait = false) :
    cpuAnswer q i regs sig = keepHalt (!taken && sig.halt) (coreStep q i regs sig) := by
  unfold cpuAnswer effectiveInput
  cases hnmi : sig.nmi with
  | true => simp [hreset, htaken, hnmi, keepHalt_false]
  | false =>
    cases hint : sig.int && coreAcceptsInt q i regs with
    | true => simp [hreset, htaken, hnmi, hint, keepHalt_false]
    | false =>
      have hwait : sig.wait = false := by simpa [htaken, hnmi, hint] using h
      simp [hreset, htaken, hnmi, hint, hwait]

/-! The slot of a module without RESET (R176, R180, R182). -/

/-- R180, R181: the inputs of a module that is not reset. -/
theorem signalsOf_noReset (c : BoardConfig) (i : ModuleIx) (m : ModuleState) (n : Bool) :
    signalsOf c i m false n = {
      reset := false
      nmi := m.latchNmi
      int := (if i = 0 then n else !c.ioblk && n) || m.latchInt
      wait := m.waitAsserted || (i != 0 && c.slvwait)
      halt := m.haltOut } := by
  by_cases hi : i = 0 <;> simp [signalsOf, intSignal, waitSignal, hi]

/-- The state in which a slot without RESET starts the CpuCore's step: the latches consumed, the inputs given
out, preStep called (R176, R182, R157). -/
def stepStart (i : ModuleIx) (sig : SignalWord) (s : State) : State :=
  callAllDevices (.preStep i) ((consumeLatches i s).emit (.presented i sig))

theorem stepStart_eq (i : ModuleIx) (sig : SignalWord) (s : State) : stepStart i sig s = { s with
    mods := s.mods.set i { s.mod i with latchNmi := false, latchInt := false }
    out := s.out ++ .presented i sig ::
      (startedDevices s.params).map fun d => .device d (.preStep i) } := by
  simp [stepStart, callAllDevices_eq, consumeLatches, State.emit, State.setMod]

section
variable {i : ModuleIx} {n : Bool} {s u : State} {acc : TickSums} {sig : SignalWord}

/-- A slot without RESET whose step completes is closed with the step's end. -/
theorem runSlot_of_completed {e : StepEnd} (hreset : (s.mod i).latchReset = false)
    (hsig : signalsOf s.cfg i (s.mod i) false n = sig)
    (hrun : runCpuStep i (cpuAnswer s.params i (s.cpu.get i) sig) none (stepStart i sig s) =
      (some e, u)) : runSlot i false n s acc = closeSlot i e u acc := by
  unfold stepStart at hrun
  simp [runSlot, openSlot, resetSignal, hreset, hsig, hrun]

/-- R201: a slot without RESET whose step a fault stops ends there. -/
theorem runSlot_of_stopped (hreset : (s.mod i).latchReset = false)
    (hsig : signalsOf s.cfg i (s.mod i) false n = sig)
    (hrun : runCpuStep i (cpuAnswer s.params i (s.cpu.get i) sig) none (stepStart i sig s) =
      (none, u)) : runSlot i false n s acc = (u, acc) := by
  unfold stepStart at hrun
  simp [runSlot, openSlot, resetSignal, hreset, hsig, hrun]

end

/-- The state after the end of a slot. -/
theorem closeSlot_state (i : ModuleIx) (e : StepEnd) (u : State) (acc : TickSums) :
    (closeSlot i e u acc).1 = { u with
      mods := u.mods.set i { u.mod i with haltOut := e.halt }
      cpu := u.cpu.set i e.regs
      out := u.out ++ (startedDevices u.params).map fun d => .device d (.postStep i e.cycles) } := by
  simp [closeSlot, callAllDevices_eq, State.setMod, State.mod]

/-- Settles O47: the slot performs the CpuCore's own step from `start`; `runCpuStep` completes it exactly where
there is a run in the sense of `StepRun`, with the same end. -/
theorem slotRunsTheCpuCoresStep : Obligations.SlotRunsTheCpuCoresStep := by
  intro s start i n taken acc sig hfault hreset hsig htaken hown hstart
  have hsignals := (signalsOf_noReset s.cfg i (s.mod i) n).trans hsig.symm
  have hhalt : sig.halt = (s.mod i).haltOut := by rw [hsig]
  obtain rfl : stepStart i sig s = start := (stepStart_eq i sig s).trans hstart.symm
  have hanswer := runCpuStep_keepHalt i (!taken && sig.halt) (coreStep s.params i (s.cpu.get i) sig)
    none (stepStart i sig s)
  rw [← cpuAnswer_own (by rw [hsig]) htaken hown] at hanswer
  cases hdone : runCpuStep i (coreStep s.params i (s.cpu.get i) sig) none (stepStart i sig s) with
  | mk ended u =>
    rw [hdone] at hanswer
    cases ended with
    | none =>
      have hstopped : u.host.fault ≠ none := by
        simpa [hdone] using runCpuStep_stops_iff i (coreStep s.params i (s.cpu.get i) sig) none
          (stepStart i sig s) (by rw [hstart]; exact hfault)
      refine ⟨u, acc, runSlot_of_stopped hreset hsignals hanswer, fun calls e u' hrun => ?_,
        fun hnone => absurd hnone hstopped⟩
      cases hdone.symm.trans hrun.runCpuStep_eq
    | some e =>
      obtain ⟨calls, hrun⟩ := exists_stepRun hdone
      have hslot := runSlot_of_completed (acc := acc) hreset hsignals hanswer
      refine ⟨(closeSlot i _ u acc).1, (closeSlot i _ u acc).2, hslot, fun calls' e' u' hrun' => ?_,
        fun _ => ⟨calls, e, u, hrun⟩⟩
      cases hdone.symm.trans hrun'.runCpuStep_eq
      obtain ⟨hcpu, hparams⟩ : u.cpu = s.cpu ∧ u.params = s.params := by
        simpa only [stepStart_eq] using hrun.cpu_params_eq
      rw [closeSlot_state, hcpu, hparams]
      refine ⟨hrun'.eq_foldl, by rw [← hhalt]; rfl, ?_, rfl, rfl⟩
      rintro rfl
      obtain rfl : u = stepStart i sig s := hrun'.eq_foldl
      simp [State.mod, hstart]

end Sys2Proof.Machine
end

section
/-! PROOFS. The statements about what a transaction may change and what every step keeps (10_state.md): what
each transaction does to the modules, and to RAM and the host marks, said once; then the status and
config bytes, the frames of a transaction, and the invariants of a step. -/

namespace Sys2Proof.Machine

theorem Four.set_set {α : Type} (f : Four α) (i : Fin 4) (x y : α) : (f.set i x).set i y = f.set i y :=
  Four.ext_get fun k => by simp only [Four.get_set]; split <;> rfl

/-! What a transaction does to the modules. -/

/-- What a transaction may do to its initiator's module without the right of a control write: it stores into
an unlocked paging register (R30), records its fetch (R31), counts the handshake down (R32), latches
NMI or INT (R151, R152), and asserts the rendezvous wait while LOCK is 0 (R123). -/
structure OwnChange (lock : Bool) (m n : ModuleState) : Prop where
  frame : n = { m with
    paging := n.paging, lastFetch := n.lastFetch, rbc := n.rbc
    latchNmi := n.latchNmi, latchInt := n.latchInt, waitAsserted := n.waitAsserted }
  paging : pagingLock m = true → n.paging = m.paging
  rbc : n.rbc ≤ m.rbc
  wait : lock = true → n.waitAsserted = m.waitAsserted

theorem OwnChange.refl (lock : Bool) (m : ModuleState) : OwnChange lock m m :=
  ⟨rfl, fun _ => rfl, le_rfl, fun _ => rfl⟩

theorem decodedRead_mods (i : ModuleIx) (a : Addr) (s : State) : (decodedRead i a s).mods = s.mods := by
  rcases decodedRead_cases i a s with ⟨v, h⟩ | ⟨off, -, -, h⟩ <;> rw [h] <;> rfl

theorem mwr_mods (i : ModuleIx) (a : Addr) (v : Byte) (s : State) : (mwr i a v s).mods = s.mods := by
  unfold mwr
  split
  · rfl
  · rcases decodedWrite_cases i a v s with h | ⟨pa, h⟩ | ⟨off, -, -, h⟩ <;> rw [h] <;> rfl

/-- R32: one read of the handshake counts down, as long as the counter is not 0. -/
theorem rbc_pred_le {c : Fin 4} (h : c ≠ 0) : c - 1 ≤ c := by
  revert c; decide

theorem mrd_mods (i : ModuleIx) (a : Addr) (s : State) :
    ∃ n, OwnChange s.cfg.lock (s.mod i) n ∧ (mrd i a s).mods = s.mods.set i n := by
  unfold mrd
  split
  · exact ⟨_, .refl _ _, (decodedRead_mods i a s).trans (Four.set_get_self _ _).symm⟩
  · next h => exact ⟨{ s.mod i with rbc := (s.mod i).rbc - 1 },
      ⟨rfl, fun _ => rfl, rbc_pred_le h, fun _ => rfl⟩, rfl⟩

theorem mfetch_mods (i : ModuleIx) (a : Addr) (s : State) :
    ∃ n, OwnChange s.cfg.lock (s.mod i) n ∧ (mfetch i a s).mods = s.mods.set i n := by
  simp only [mfetch]
  split
  · rw [decodedRead_mods, rendezvousCheck_eq]
    simp only [State.setMod_mods, State.setMod_mod_same, State.setMod_cfg, Four.set_set]
    refine ⟨_, ?_, rfl⟩
    exact ⟨rfl, fun _ => rfl, le_rfl, fun hlock => by simp [hlock]⟩
  · next h =>
    simp only [State.setMod_mod_same] at h
    simp only [readback, State.emit_mods, State.setMod_mods, State.setMod_mod_same, Four.set_set]
    refine ⟨_, ?_, rfl⟩
    exact ⟨rfl, fun _ => rfl, rbc_pred_le h, fun _ => rfl⟩

theorem iowrPaging_mods (i : ModuleIx) (v : Byte) (s : State) :
    ∃ n, OwnChange s.cfg.lock (s.mod i) n ∧ (iowrPaging i v s).mods = s.mods.set i n := by
  unfold iowrPaging
  split
  · exact ⟨_, .refl _ _, (Four.set_get_self _ _).symm⟩
  · next h => exact ⟨{ s.mod i with paging := pagingOfByte v },
      ⟨rfl, fun hlocked => absurd hlocked h, le_rfl, fun _ => rfl⟩, rfl⟩

theorem iowrCfg_mods (i : ModuleIx) (v : Byte) (s : State) : (iowrCfg i v s).mods = s.mods := by
  unfold iowrCfg
  split <;> rfl

theorem iordDev_mods (i : ModuleIx) (p : Port) (s : State) : (iordDev i p s).mods = s.mods := by
  unfold iordDev
  split <;> rfl

theorem iowrDev_mods (i : ModuleIx) (p : Port) (v : Byte) (s : State) :
    (iowrDev i p v s).mods = s.mods := by
  unfold iowrDev
  split <;> rfl

/-- A transaction changes its own module within `OwnChange`, or it is an accepted control-register write. -/
theorem exec_mods_cases {s t : State} {ins : Instr} {i : ModuleIx} (hi : initiator ins = some i)
    (h : exec ins s = .next t) :
    (∃ n, OwnChange s.cfg.lock (s.mod i) n ∧ t.mods = s.mods.set i n) ∨
    ∃ p v, ins = .iowrCtrl i p v ∧ ctrlWriteAccepted s.cfg i (ctrlTarget s.params i p) = true ∧
      t = ctrlAccept (ctrlTarget s.params i p) (ctrlReg p) v s := by
  have same : ∀ {u : State}, u.mods = s.mods →
      ∃ n, OwnChange s.cfg.lock (s.mod i) n ∧ u.mods = s.mods.set i n :=
    fun hu => ⟨_, .refl _ _, hu.trans (Four.set_get_self _ _).symm⟩
  cases ins <;> cases hi <;> cases h
  case mrd => exact .inl (mrd_mods _ _ _)
  case mfetch => exact .inl (mfetch_mods _ _ _)
  case mwr => exact .inl (same (mwr_mods _ _ _ _))
  case iowrCtrl p v =>
    unfold iowrCtrl
    split
    · next hacc => exact .inr ⟨p, v, rfl, hacc, rfl⟩
    · exact .inl (same rfl)
  case iowrPaging => exact .inl (iowrPaging_mods _ _ _)
  case iowrCfg => exact .inl (same (iowrCfg_mods _ _ _))
  case iordDev => exact .inl (same (iordDev_mods _ _ _))
  case iowrDev => exact .inl (same (iowrDev_mods _ _ _ _))
  case iordMapped | iowrMapped =>
    refine .inl ⟨_, ?_, rfl⟩
    exact ⟨rfl, fun _ => rfl, le_rfl, fun _ => rfl⟩
  case iordCtrl | iordStatus | iordCfg | inta | reti => exact .inl (same rfl)

/-- R28, R143: which control-register writes are accepted. -/
theorem ctrlWriteAccepted_iff (c : BoardConfig) (i k : ModuleIx) :
    ctrlWriteAccepted c i k = true ↔ c.lock = false ∧ i ≤ k := by
  simp [ctrlWriteAccepted]

/-- What a transaction may do to module `k`: nothing; an own change, where `k` issued it; an accepted control
write, with LOCK 0 and an initiator of index at most `k`. -/
theorem exec_mod_cases {s t : State} {ins : Instr} {i : ModuleIx} (hi : initiator ins = some i)
    (h : exec ins s = .next t) (k : ModuleIx) :
    t.mod k = s.mod k ∨ (k = i ∧ OwnChange s.cfg.lock (s.mod k) (t.mod k)) ∨
    ∃ p v, ins = .iowrCtrl i p v ∧ s.cfg.lock = false ∧ i ≤ k ∧
      t.mod k = acceptedWrite s.params (ctrlReg p) v (s.mod k) := by
  rcases exec_mods_cases hi h with ⟨n, hn, hmods⟩ | ⟨p, v, hins, hacc, rfl⟩
  · by_cases hk : k = i
    · subst hk
      exact .inr (.inl ⟨rfl, by simpa [State.mod, hmods] using hn⟩)
    · exact .inl (by simp [State.mod, hmods, Four.get_set_ne _ _ hk])
  · by_cases hk : k = ctrlTarget s.params i p
    · subst hk
      obtain ⟨hlock, hle⟩ := (ctrlWriteAccepted_iff _ _ _).mp hacc
      exact .inr (.inr ⟨p, v, hins, hlock, hle, State.setMod_mod_same _ _ _⟩)
    · exact .inl (State.setMod_mod_ne _ _ hk)

/-! What a transaction does to RAM and to the host marks. -/

/-- A transaction of initiator `i` stores at most one byte or records at most one fault, the overflow of R65;
and it touches neither RAM nor the host marks otherwise. -/
inductive MemoryEffect (i : ModuleIx) (s t : State) : Prop
  | unchanged (ram : t.ram = s.ram) (host : t.host = s.host)
  | stored (pa : PhysAddr) (v : Byte) (ram : t.ram = s.ram.write pa.toNat v) (host : t.host = s.host)
  | overflowed (a : Addr) (off : Nat) (past : ramSize ≤ off) (policy : s.params.ramOverflow = .fault)
      (ram : t.ram = s.ram) (host : t.host = { s.host with fault := some (.ramOverflow i a off) })

theorem decodedRead_memoryEffect (i : ModuleIx) (a : Addr) (s : State) :
    MemoryEffect i s (decodedRead i a s) := by
  rcases decodedRead_cases i a s with ⟨v, h⟩ | ⟨off, hpast, hpolicy, h⟩ <;> rw [h]
  · exact .unchanged rfl rfl
  · exact .overflowed a off hpast hpolicy rfl rfl

theorem mrd_memoryEffect (i : ModuleIx) (a : Addr) (s : State) : MemoryEffect i s (mrd i a s) := by
  unfold mrd
  split
  · exact decodedRead_memoryEffect i a s
  · exact .unchanged rfl rfl

theorem mfetch_memoryEffect (i : ModuleIx) (a : Addr) (s : State) :
    MemoryEffect i s (mfetch i a s) := by
  simp only [mfetch]
  split
  · rw [rendezvousCheck_eq]
    cases decodedRead_memoryEffect i a (State.setMod _ i _) with
    | unchanged ram host => exact .unchanged ram host
    | stored pa v ram host => exact .stored pa v ram host
    | overflowed b off past policy ram host => exact .overflowed b off past policy ram host
  · exact .unchanged rfl rfl

theorem mwr_memoryEffect (i : ModuleIx) (a : Addr) (v : Byte) (s : State) :
    MemoryEffect i s (mwr i a v s) := by
  unfold mwr
  split
  · exact .unchanged rfl rfl
  · rcases decodedWrite_cases i a v s with h | ⟨pa, h⟩ | ⟨off, hpast, hpolicy, h⟩ <;> rw [h]
    · exact .unchanged rfl rfl
    · exact .stored pa v rfl rfl
    · exact .overflowed a off hpast hpolicy rfl rfl

theorem exec_memoryEffect {s t : State} {ins : Instr} {i : ModuleIx} (hi : initiator ins = some i)
    (h : exec ins s = .next t) : MemoryEffect i s t := by
  cases ins <;> cases hi <;> cases h
  case mrd => exact mrd_memoryEffect _ _ _
  case mfetch => exact mfetch_memoryEffect _ _ _
  case mwr => exact mwr_memoryEffect _ _ _ _
  case iowrMapped => exact .stored _ _ rfl rfl
  case iowrCtrl | iowrPaging | iowrCfg | iordDev | iowrDev =>
    simp only [iowrCtrl, iowrPaging, iowrCfg, iordDev, iowrDev]
    split <;> exact .unchanged rfl rfl
  case iordCtrl | iordStatus | iordCfg | iordMapped | inta | reti => exact .unchanged rfl rfl

/-! Every step keeps the arrays in canonical form (R48, R49). -/

theorem arraysWf_iff (s : State) : arraysWf s = true ↔
    (s.ram.wf = true ∧ s.ram.below ramSize = true) ∧ (s.rom0.wf = true ∧ s.rom0.below romSize = true) ∧
      s.rom1.wf = true ∧ s.rom1.below romSize = true := by
  simp [arraysWf, and_assoc]

theorem exec_keeps_arraysWf {s t : State} {ins : Instr} {i : ModuleIx} (hi : initiator ins = some i)
    (h : exec ins s = .next t) (hs : arraysWf s = true) : arraysWf t = true := by
  rw [arraysWf_iff] at hs ⊢
  rw [(exec_busFrame hi h).rom0_eq, (exec_busFrame hi h).rom1_eq]
  obtain ⟨⟨hwf, hbelow⟩, hroms⟩ := hs
  refine ⟨?_, hroms⟩
  cases exec_memoryEffect hi h with
  | unchanged ram | overflowed _ _ _ _ ram => rw [ram]; exact ⟨hwf, hbelow⟩
  | stored pa v ram =>
    rw [ram]
    exact ⟨Memory.wf_write hwf _ v, Memory.below_write hbelow v pa.isLt⟩

theorem issueCall_keeps_arraysWf (i : ModuleIx) (c : BusCall) (s : State) (hs : arraysWf s = true) :
    arraysWf (issueCall i c s) = true := by
  obtain ⟨ins, -, hi, h⟩ := exec_encodeCall s i c
  exact exec_keeps_arraysWf hi h hs

theorem callAllDevices_arraysWf (c : DeviceCall) (s : State) :
    arraysWf (callAllDevices c s) = arraysWf s := by
  rw [callAllDevices_eq]; rfl

theorem openTick_arraysWf (r : Bool) (s : State) : arraysWf (openTick r s) = arraysWf s := by
  cases r with
  | false => rfl
  | true => exact callAllDevices_arraysWf .reset { s with cfg := configAtReset }

theorem tick_keeps_arraysWf (r n : Bool) (s : State) (hs : arraysWf s = true) :
    arraysWf (tick r n s) = true :=
  tick_keeps (P := fun u => arraysWf u = true) (fun u h => (openTick_arraysWf r u).trans h)
    (fun i _ _ h => runSlot_keeps (P := fun u => arraysWf u = true) (fun _ h => h) (fun _ h => h)
      (fun _ _ h => h) (fun _ _ h => h) (fun c u h => (callAllDevices_arraysWf c u).trans h)
      (issueCall_keeps_arraysWf i) (fun _ _ h => h) h)
    (fun _ _ h => h) hs

/-- Settles O54: a transaction stores at most one byte, at a physical address, and a tick is made of
transactions and of operations that leave the arrays alone. -/
theorem stepKeepsArraysWellFormed : Obligations.StepKeepsArraysWellFormed := by
  intro s t hs h
  obtain ⟨w, rest, ins, -, -, he⟩ := step_eq_next h
  replace hs : arraysWf { s with pending := rest, out := [] } = true := hs
  cases ins
  case hostTick r n => rw [execHostTick_eq_next he]; exact tick_keeps_arraysWf r n _ hs
  case hostSnapshot | hostCancel => cases he; exact hs
  all_goals exact exec_keeps_arraysWf rfl he hs

/-! No step clears a host mark (R47). -/

/-- R47: a mark that is set in `s` is set in `t`. -/
def MarksKept (s t : State) : Prop :=
  (s.host.cancelRequested = true → t.host.cancelRequested = true) ∧
    (s.host.fault ≠ none → t.host.fault ≠ none)

theorem MemoryEffect.marksKept {i : ModuleIx} {s t : State} (h : MemoryEffect i s t) :
    MarksKept s t := by
  cases h with
  | unchanged _ host | stored _ _ _ host => simp [MarksKept, host]
  | overflowed _ _ _ _ _ host => simp [MarksKept, host]

/-- R176, R187: a TICK that is not refused starts with no mark set. -/
theorem host_of_execHostTick_eq_next {r n : Bool} {s t : State} (h : execHostTick r n s = .next t) :
    s.host.fault = none ∧ s.host.cancelRequested = false := by
  unfold execHostTick at h
  split at h
  · cases h
  · next hfault =>
    split at h
    · cases h
    · next hcancel => exact ⟨hfault, by simpa using hcancel⟩

theorem exec_marksKept {s t : State} (ins : Instr) (h : exec ins s = .next t) : MarksKept s t := by
  cases ins
  case hostTick r n =>
    obtain ⟨hfault, hcancel⟩ := host_of_execHostTick_eq_next h
    simp [MarksKept, hfault, hcancel]
  case hostSnapshot => cases h; exact ⟨id, id⟩
  case hostCancel => cases h; exact ⟨fun _ => rfl, id⟩
  all_goals exact (exec_memoryEffect rfl h).marksKept

/-- Settles O59: a transaction at most records a fault, a TICK runs only while both marks are clear, and
CANCEL sets its mark. -/
theorem hostMarksAreNeverCleared : Obligations.HostMarksAreNeverCleared := by
  intro s t h
  obtain ⟨w, rest, ins, -, -, he⟩ := step_eq_next h
  have hmarks := exec_marksKept ins he
  exact hmarks

/-! What no transaction does to a module (R28, R40, R143, R203, R214). -/

/-- Settles O35: an own change is to the initiator, and an accepted control write to no lower index. -/
theorem lowerIndexedModulesUntouched : Obligations.LowerIndexedModulesUntouched := by
  intro s t ins i k hi h hk
  rcases exec_mod_cases hi h k with hsame | ⟨rfl, -⟩ | ⟨p, v, -, -, hle, -⟩
  · exact hsame
  · exact absurd hk (lt_irrefl k)
  · exact absurd hk (not_lt.mpr hle)

/-- Settles O37: LOCK bars every control write, and an own change keeps the wait under LOCK and has no part
in the rest. -/
theorem lockFreezesControlState : Obligations.LockFreezesControlState := by
  intro s t ins i k hlock hi h
  rcases exec_mod_cases hi h k with hsame | ⟨-, hown⟩ | ⟨p, v, -, hunlocked, -, -⟩
  · simp [hsame]
  · rw [hown.frame]
    exact ⟨rfl, rfl, rfl, hown.wait hlock⟩
  · simp [hlock] at hunlocked

/-- Settles O38: of what a transaction may do to a module, only an accepted control write reaches R0 to R3. -/
theorem controlRegistersChangeByRightOnly : Obligations.ControlRegistersChangeByRightOnly := by
  intro s t ins i k hi h hne
  rcases exec_mod_cases hi h k with hsame | ⟨-, hown⟩ | ⟨p, v, hins, hlock, hle, -⟩
  · exact absurd (congrArg ModuleState.r hsame) hne
  · exact absurd (congrArg ModuleState.r hown.frame) hne
  · exact ⟨hlock, hle, p, v, hins⟩

/-! The status byte and the config byte (R38, R104). -/

@[simp] theorem bitAt_getElem (b : Bool) (k : Nat) {j : Nat} (hj : j < 8) :
    (bitAt b k)[j] = (b && decide (j = k)) := by
  cases b
  · simp [bitAt]
  · rw [Bool.eq_iff_iff]
    simp [bitAt, BitVec.getElem_one]
    omega

/-- R38: each bit of the status byte shows the source that STATUS_MAP gives it. -/
theorem statusByte_bits (q : Params) (m : ModuleState) :
    (statusByte q m).getLsbD 0 = statusBit m q.statusMap.b0 ∧
    (statusByte q m).getLsbD 1 = statusBit m q.statusMap.b1 ∧
    (statusByte q m).getLsbD 2 = statusBit m q.statusMap.b2 ∧
    (statusByte q m).getLsbD 3 = statusBit m q.statusMap.b3 ∧
    (statusByte q m).getLsbD 4 = statusBit m q.statusMap.b4 ∧
    (statusByte q m).getLsbD 5 = statusBit m q.statusMap.b5 ∧
    (statusByte q m).getLsbD 6 = statusBit m q.statusMap.b6 ∧
    (statusByte q m).getLsbD 7 = statusBit m q.statusMap.b7 := by
  simp [statusByte]

/-- Settles O24: the eight bits of the status byte, with the default STATUS_MAP put in. -/
theorem statusByteBits : Obligations.StatusByteBits := by
  intro s i p
  refine ⟨statusByte s.params (s.mod i), rfl, fun hmap => ?_⟩
  have hbits := statusByte_bits s.params (s.mod i)
  rw [hmap] at hbits
  exact hbits

/-- R43, R104: under the default CFG_LAYOUT, a config byte that is stored and read again loses its reserved
bits 6:4 and nothing else. -/
theorem cfgByte_cfgOfByte {q : Params} (hq : q.cfgLayout = cfgLayoutDefault) (v : Byte) :
    cfgByte q (cfgOfByte q v) = v &&& 0x8F := by
  ext j hj
  have hbit : (cfgByte q (cfgOfByte q v))[j] = (decide (j ≤ 1) && v.getLsbD j ||
      v.getLsbD 2 && decide (j = 2) || v.getLsbD 3 && decide (j = 3) ||
      v.getLsbD 7 && decide (j = 7)) := by
    simp [cfgByte, cfgOfByte, hq, cfgLayoutDefault]
  rw [hbit]
  interval_cases j <;> simp

/-- Settles O28: module 0 stores the fields of the byte, and a read puts them back in their places. -/
theorem configReadBack : Obligations.ConfigReadBack := by
  intro s t i p v hlayout h
  cases h
  rw [← cfgByte_cfgOfByte hlayout v]
  rfl

/-! Between resets of its module, a locked paging register is constant and the readback counter does not
increase (R30, R32, R54). -/

/-- What a module keeps between its resets: its paging register once that is locked, and its readback counter
but for decreases. -/
structure KeptUntilReset (m n : ModuleState) : Prop where
  paging : pagingLock m = true → n.paging = m.paging
  rbc : n.rbc ≤ m.rbc

theorem KeptUntilReset.of_eq {m n : ModuleState} (hpaging : n.paging = m.paging)
    (hrbc : n.rbc = m.rbc) : KeptUntilReset m n :=
  ⟨fun _ => hpaging, hrbc.le⟩

theorem KeptUntilReset.trans {m n o : ModuleState} (h : KeptUntilReset m n)
    (h' : KeptUntilReset n o) : KeptUntilReset m o where
  paging hm :=
    have hn : pagingLock n = true := by simpa only [pagingLock, h.paging hm] using hm
    (h'.paging hn).trans (h.paging hm)
  rbc := h'.rbc.trans h.rbc

theorem exec_keptUntilReset {s t : State} {ins : Instr} {i : ModuleIx} (hi : initiator ins = some i)
    (h : exec ins s = .next t) (k : ModuleIx) : KeptUntilReset (s.mod k) (t.mod k) := by
  rcases exec_mod_cases hi h k with hsame | ⟨-, hown⟩ | ⟨p, v, -, -, -, hwrite⟩
  · rw [hsame]; exact .of_eq rfl rfl
  · exact ⟨hown.paging, hown.rbc⟩
  · rw [hwrite, acceptedWrite_eq]; exact .of_eq rfl rfl

theorem issueCall_keptUntilReset (i : ModuleIx) (c : BusCall) (s : State) (k : ModuleIx) :
    KeptUntilReset (s.mod k) ((issueCall i c s).mod k) := by
  obtain ⟨ins, -, hi, h⟩ := exec_encodeCall s i c
  exact exec_keptUntilReset hi h k

theorem issueCall_mod_of_lt {i k : ModuleIx} (hk : k < i) (c : BusCall) (s : State) :
    (issueCall i c s).mod k = s.mod k := by
  obtain ⟨ins, -, hi, h⟩ := exec_encodeCall s i c
  exact lowerIndexedModulesUntouched s _ ins i k hi h hk

@[simp] theorem callAllDevices_mod (c : DeviceCall) (s : State) (k : ModuleIx) :
    (callAllDevices c s).mod k = s.mod k := by
  rw [callAllDevices_eq]; rfl

/-- What the calls of a slot of module `i` keep of another module, the slot keeps of it: the slot's own
operations change module `i` only. -/
theorem runSlot_keeps_other {P : ModuleState → Prop} {i k : ModuleIx} (hk : k ≠ i)
    (hcall : ∀ c s, P (s.mod k) → P ((issueCall i c s).mod k)) (r n : Bool) {s : State} (acc : TickSums)
    (hs : P (s.mod k)) : P ((runSlot i r n s acc).1.mod k) := by
  have hset : ∀ (m : ModuleState) (u : State), P (u.mod k) → P ((u.setMod i m).mod k) :=
    fun m u h => by rwa [State.setMod_mod_ne u m hk]
  exact runSlot_keeps (P := fun u => P (u.mod k)) (fun u => hset _ u) (fun u => hset _ u)
    (fun _ _ h => h) (fun _ _ h => h) (fun c u h => by rwa [callAllDevices_mod]) hcall
    (fun _ u => hset _ u) hs

/-- R143, R214 in a tick: a slot touches no module of a lower index. -/
theorem runSlot_mod_of_lt {i k : ModuleIx} (hk : k < i) (r n : Bool) (s : State) (acc : TickSums) :
    (runSlot i r n s acc).1.mod k = s.mod k :=
  runSlot_keeps_other (P := fun m => m = s.mod k) hk.ne
    (fun c u h => (issueCall_mod_of_lt hk c u).trans h) r n acc rfl

theorem closeSlot_mod_same (i : ModuleIx) (e : StepEnd) (u : State) (acc : TickSums) :
    (closeSlot i e u acc).1.mod i = { u.mod i with haltOut := e.halt } := by
  rw [closeSlot_state]
  exact Four.get_set_same _ _ _

/-- R172, R177, R231: a slot with RESET leaves its module in the reset state. -/
theorem runSlot_mod_of_reset {i : ModuleIx} {r n : Bool} {s : State} {acc : TickSums}
    (hreset : resetSignal (s.mod i) r = true) : (runSlot i r n s acc).1.mod i = moduleAtReset i := by
  simp [runSlot, openSlot, hreset, cpuAnswer, effectiveInput, signalsOf, runCpuStep,
    closeSlot_mod_same, consumeLatches, moduleReset, moduleAtReset]

/-- A slot without RESET is no reset of its module: the calls of the CpuCore's step keep what they keep, and
the slot's own operations touch only the latches and the HALT output. -/
theorem runSlot_kept_of_noReset {i : ModuleIx} {r n : Bool} {s : State} {acc : TickSums}
    (hreset : resetSignal (s.mod i) r = false) :
    KeptUntilReset (s.mod i) ((runSlot i r n s acc).1.mod i) := by
  obtain ⟨rfl, hlatch⟩ : r = false ∧ (s.mod i).latchReset = false := by
    simpa [resetSignal] using hreset
  have hrun := runCpuStep_keeps (P := fun u => KeptUntilReset (s.mod i) (u.mod i))
    (fun c u h => h.trans (issueCall_keptUntilReset i c u i))
    (cpuAnswer s.params i (s.cpu.get i) (signalsOf s.cfg i (s.mod i) false n)) none
    (s := stepStart i (signalsOf s.cfg i (s.mod i) false n) s)
    (by simp only [stepStart_eq, State.mod, Four.get_set_same]; exact .of_eq rfl rfl)
  cases hdone : runCpuStep i (cpuAnswer s.params i (s.cpu.get i) (signalsOf s.cfg i (s.mod i) false n))
      none (stepStart i (signalsOf s.cfg i (s.mod i) false n) s) with
  | mk ended u =>
    rw [hdone] at hrun
    cases ended with
    | none => rwa [runSlot_of_stopped hlatch rfl hdone]
    | some e =>
      rw [runSlot_of_completed hlatch rfl hdone, closeSlot_mod_same]
      exact hrun.trans (.of_eq rfl rfl)

/-- A slot keeps what every module keeps until its reset, or it is the slot in which the module resets. -/
theorem runSlot_mod_cases (i k : ModuleIx) (r n : Bool) (s : State) (acc : TickSums) :
    KeptUntilReset (s.mod k) ((runSlot i r n s acc).1.mod k) ∨
      k = i ∧ (runSlot i r n s acc).1.mod k = moduleAtReset k := by
  by_cases hk : k = i
  · subst hk
    cases hreset : resetSignal (s.mod k) r with
    | true => exact .inr ⟨rfl, runSlot_mod_of_reset hreset⟩
    | false => exact .inl (runSlot_kept_of_noReset hreset)
  · exact .inl (runSlot_keeps_other (P := KeptUntilReset (s.mod k)) hk
      (fun c u h => h.trans (issueCall_keptUntilReset i c u k)) r n acc (.of_eq rfl rfl))

theorem runSlots_mod_of_lt {l : List ModuleIx} {k : ModuleIx} (hl : ∀ j ∈ l, k < j) (r n : Bool)
    (s : State) (acc : TickSums) : (runSlots r n l s acc).1.mod k = s.mod k := by
  induction l generalizing s acc with
  | nil => rfl
  | cons i rest ih =>
    obtain ⟨hi, hrest⟩ := List.forall_mem_cons.mp hl
    simp only [runSlots]
    split
    · exact runSlot_mod_of_lt hi r n s acc
    · exact (ih hrest _ _).trans (runSlot_mod_of_lt hi r n s acc)

/-- R176, R189: slots in rising order. A module that resets in its slot is in its reset state after them all,
because no later slot touches it. -/
theorem runSlots_mod_cases {l : List ModuleIx} (hl : l.Pairwise (· < ·)) (k : ModuleIx) (r n : Bool)
    (s : State) (acc : TickSums) :
    KeptUntilReset (s.mod k) ((runSlots r n l s acc).1.mod k) ∨
      (runSlots r n l s acc).1.mod k = moduleAtReset k := by
  induction l generalizing s acc with
  | nil => exact .inl (.of_eq rfl rfl)
  | cons i rest ih =>
    obtain ⟨hi, hrest⟩ := List.pairwise_cons.mp hl
    simp only [runSlots]
    split
    · exact (runSlot_mod_cases i k r n s acc).imp_right And.right
    · rcases runSlot_mod_cases i k r n s acc with hkept | ⟨rfl, hreset⟩
      · exact (ih hrest _ _).imp_left hkept.trans
      · exact .inr ((runSlots_mod_of_lt hi r n _ _).trans hreset)

theorem openTick_mod (r : Bool) (s : State) (k : ModuleIx) : (openTick r s).mod k = s.mod k := by
  cases r with
  | false => rfl
  | true => exact callAllDevices_mod .reset { s with cfg := configAtReset } k

theorem tick_mod_cases (r n : Bool) (s : State) (k : ModuleIx) :
    KeptUntilReset (s.mod k) ((tick r n s).mod k) ∨ (tick r n s).mod k = moduleAtReset k := by
  have hslots := runSlots_mod_cases (l := [0, 1, 2, 3]) (by decide) k r n (openTick r s) noSums
  rw [openTick_mod] at hslots
  simp only [tick]
  split
  · exact hslots
  · exact hslots

/-- Of every module a step keeps what the module keeps until its reset, or leaves it in its reset state. -/
theorem step_mod_cases {s t : State} (h : step s = .next t) (k : ModuleIx) :
    KeptUntilReset (s.mod k) (t.mod k) ∨ t.mod k = moduleAtReset k := by
  obtain ⟨w, rest, ins, -, -, he⟩ := step_eq_next h
  cases ins
  case hostTick r n => rw [execHostTick_eq_next he]; exact tick_mod_cases r n { s with pending := rest, out := [] } k
  case hostSnapshot | hostCancel => cases he; exact .inl (.of_eq rfl rfl)
  all_goals exact .inl (exec_keptUntilReset rfl he k)

/-- Settles O57: a paging register that is locked is among what a module keeps until its reset. -/
theorem pagingLockHoldsUntilReset : Obligations.PagingLockHoldsUntilReset := by
  intro s t k h hlock
  exact (step_mod_cases h k).imp_left fun hkept => hkept.paging hlock

/-- Settles O58: so is the readback counter, but for decreases. -/
theorem readbackCounterOnlyDecreases : Obligations.ReadbackCounterOnlyDecreases := by
  intro s t k h
  exact (step_mod_cases h k).imp_left KeptUntilReset.rbc

end Sys2Proof.Machine
end

section
/-! PROOFS. The statements about memory (20_memory.md): that every step keeps the fault mark legal; the selector
in numbers, said once; what each read and write decode does where the selector points; and from these the
memory transactions, alone and a write followed by a read. -/

namespace Sys2Proof.Machine

/-! Every step keeps the fault mark legal (R65, R74, R201). -/

theorem openTick_host (r : Bool) (s : State) : (openTick r s).host = s.host := by
  cases r with
  | false => rfl
  | true => simp [openTick, boardReset, callAllDevices_eq]

/-- Of a tick's operations only its bus calls reach the host marks or the parameters: what rests on these two
alone and is kept by every call, a tick keeps. -/
theorem tick_keeps_of_calls {P : State → Prop}
    (hcongr : ∀ {s t : State}, t.host = s.host → t.params = s.params → P s → P t)
    (hcall : ∀ i c s, P s → P (issueCall i c s)) (r n : Bool) {s : State} (hs : P s) :
    P (tick r n s) := by
  have hdev : ∀ c u, P u → P (callAllDevices c u) := fun c u =>
    hcongr (by rw [callAllDevices_eq]) (by rw [callAllDevices_eq])
  have hslot : ∀ i u acc, P u → P (runSlot i r n u acc).1 := fun i _ _ =>
    runSlot_keeps (P := P) (fun _ => hcongr rfl rfl) (fun _ => hcongr rfl rfl) (fun _ _ => hcongr rfl rfl)
      (fun _ _ => hcongr rfl rfl) hdev (hcall i) (fun _ _ => hcongr rfl rfl)
  exact tick_keeps (fun u => hcongr (openTick_host r u) (openTick_sameFixed r u).2.2) hslot
    (fun _ _ => hcongr rfl rfl) hs

theorem faultLegal_congr {s t : State} (hhost : t.host = s.host) (hparams : t.params = s.params) :
    faultLegal t = faultLegal s := by
  simp only [faultLegal, hhost, hparams]

/-- The only fault a transaction records is the overflow of R65, under its policy and past the arena. -/
theorem exec_keeps_faultLegal {s t : State} {ins : Instr} {i : ModuleIx} (hi : initiator ins = some i)
    (h : exec ins s = .next t) (hs : faultLegal s = true) : faultLegal t = true := by
  have hparams := (exec_busFrame hi h).params_eq
  cases exec_memoryEffect hi h with
  | unchanged _ host | stored _ _ _ host => exact (faultLegal_congr host hparams).trans hs
  | overflowed a off past policy _ host => simp [faultLegal, host, hparams, policy, past]

theorem issueCall_keeps_faultLegal (i : ModuleIx) (c : BusCall) (s : State)
    (hs : faultLegal s = true) : faultLegal (issueCall i c s) = true := by
  obtain ⟨ins, -, hi, h⟩ := exec_encodeCall s i c
  exact exec_keeps_faultLegal hi h hs

theorem tick_keeps_faultLegal (r n : Bool) (s : State) (hs : faultLegal s = true) :
    faultLegal (tick r n s) = true :=
  tick_keeps_of_calls (P := fun u => faultLegal u = true)
    (fun hhost hparams h => (faultLegal_congr hhost hparams).trans h) issueCall_keeps_faultLegal r n hs

/-- Settles O56: a transaction records no other fault than the overflow, and of a tick's operations only its
transactions record one. -/
theorem stepKeepsFaultLegal : Obligations.StepKeepsFaultLegal := by
  intro s t hs h
  obtain ⟨w, rest, ins, -, -, he⟩ := step_eq_next h
  replace hs : faultLegal { s with pending := rest, out := [] } = true := hs
  cases ins
  case hostTick r n => rw [execHostTick_eq_next he]; exact tick_keeps_faultLegal r n _ hs
  case hostSnapshot | hostCancel => cases he; exact hs
  all_goals exact exec_keeps_faultLegal rfl he hs

/-! The memory-bank selector in numbers (R61 to R65). -/

theorem windowOf_toNat (a : Addr) : (windowOf a).toNat = a.toNat / 16384 := by
  have ha : a.toNat < 65536 := a.isLt
  rw [windowOf, BitVec.extractLsb'_toNat, Nat.shiftRight_eq_div_pow]
  omega

theorem windowOffset_toNat (a : Addr) : (windowOffset a).toNat = a.toNat % 16384 := by
  simp [windowOffset]

/-- R61: the four windows, and the addresses of each. -/
theorem windowOf_cases (a : Addr) :
    (windowOf a = 0 ∧ a.toNat < 0x4000) ∨
    (windowOf a = 1 ∧ ¬a.toNat < 0x4000 ∧ a.toNat < 0x8000) ∨
    (windowOf a = 2 ∧ ¬a.toNat < 0x4000 ∧ ¬a.toNat < 0x8000 ∧ a.toNat < 0xC000) ∨
    (windowOf a = 3 ∧ ¬a.toNat < 0x4000 ∧ ¬a.toNat < 0x8000 ∧ ¬a.toNat < 0xC000) := by
  have ha : a.toNat < 65536 := a.isLt
  simp only [← BitVec.toNat_inj, windowOf_toNat, BitVec.reduceToNat]
  omega

theorem isRom_windowOf (m : ModuleState) (a : Addr) : isRom m (windowOf a) = inRomWindow m a := by
  rcases windowOf_cases a with ⟨hw, h⟩ | ⟨hw, h⟩ | ⟨hw, h⟩ | ⟨hw, h⟩ <;>
    simp [isRom, ramRom, inRomWindow, hw, h]

/-- R62: the bank of an address's window, by number. -/
theorem bankOf_windowOf (m : ModuleState) (a : Addr) :
    ∃ b, bankOf m (windowOf a) = some b ∧ b.toNat = bankNumber m a := by
  rcases windowOf_cases a with ⟨hw, h⟩ | ⟨hw, h⟩ | ⟨hw, h⟩ | ⟨hw, h⟩
  · exact ⟨0, by simp [bankOf, hw], by simp [bankNumber, h]⟩
  · exact ⟨5, by simp [bankOf, hw], by simp [bankNumber, h]⟩
  · exact ⟨2, by simp [bankOf, hw], by simp [bankNumber, h]⟩
  · exact ⟨pageField m, by simp [bankOf, hw], by simp [bankNumber, h, pageField]⟩

theorem bankNumber_lt (m : ModuleState) (a : Addr) : bankNumber m a < 8 := by
  unfold bankNumber
  split_ifs <;> omega

theorem rawOffset_windowOffset {m : ModuleState} {a : Addr} {b : BitVec 3}
    (hb : b.toNat = bankNumber m a) : rawOffset m b (windowOffset a) = offsetNumber m a := by
  simp [rawOffset, offsetNumber, bankOfs, windowOffset_toNat, hb]

theorem windowOffset_eq (a : Addr) : windowOffset a = BitVec.ofNat 14 a.toNat :=
  BitVec.eq_of_toNat_eq (by simp [windowOffset_toNat])

/-- Settles O7: the window decides between ROM and RAM, and the offset in bit fields is the offset in
numbers. -/
theorem selectorFollowsWindowAndBank : Obligations.SelectorFollowsWindowAndBank := by
  intro q m a
  obtain ⟨b, hb, hnumber⟩ := bankOf_windowOf m a
  simp only [memTarget, isRom_windowOf, romSel, windowOffset_eq, hb]
  rw [← windowOffset_eq, ramTarget, rawOffset_windowOffset hnumber]
  rfl

/-! The three targets of the selector (R63, R64, R65). -/

theorem memTarget_of_rom (q : Params) {m : ModuleState} {a : Addr} (h : inRomWindow m a = true) :
    memTarget q m a = .rom (m.paging.getLsbD 4) (BitVec.ofNat 14 a.toNat) :=
  (selectorFollowsWindowAndBank q m a).trans (if_pos h)

theorem memTarget_of_not_rom (q : Params) {m : ModuleState} {a : Addr}
    (h : inRomWindow m a = false) : memTarget q m a =
      if 2 ^ 19 ≤ offsetNumber m a ∧ q.ramOverflow = .fault then .overflow (offsetNumber m a)
      else .ram (BitVec.ofNat 19 (offsetNumber m a)) :=
  (selectorFollowsWindowAndBank q m a).trans (if_neg (by simp [h]))

theorem memTarget_of_overflow {q : Params} {m : ModuleState} {a : Addr}
    (h : inRomWindow m a = false) (hpast : 2 ^ 19 ≤ offsetNumber m a)
    (hpolicy : q.ramOverflow = .fault) : memTarget q m a = .overflow (offsetNumber m a) :=
  (memTarget_of_not_rom q h).trans (if_pos ⟨hpast, hpolicy⟩)

theorem memTarget_of_ram {q : Params} {m : ModuleState} {a : Addr} (h : inRomWindow m a = false)
    (hfit : q.ramOverflow = .wrap ∨ offsetNumber m a < 2 ^ 19) :
    memTarget q m a = .ram (BitVec.ofNat 19 (offsetNumber m a)) := by
  refine (memTarget_of_not_rom q h).trans (if_neg fun ⟨hpast, hpolicy⟩ => ?_)
  rcases hfit with hwrap | hlt
  · cases hwrap.symm.trans hpolicy
  · exact absurd hpast (not_le.mpr hlt)

/-- R84: BANKOFS and the bank decide alone whether an offset lies past the arena. -/
theorem arena_le_offsetNumber_iff (m : ModuleState) (a : Addr) :
    2 ^ 19 ≤ offsetNumber m a ↔ (m.r.get 0).toNat % 8 = 7 ∧ 4 ≤ bankNumber m a := by
  have hbank := bankNumber_lt m a
  unfold offsetNumber
  omega

theorem offsetNumber_lt (m : ModuleState) (a : Addr) : offsetNumber m a < 2 ^ 19 + 2 ^ 19 := by
  have hbank := bankNumber_lt m a
  unfold offsetNumber
  omega

theorem memTarget_eq_overflow_iff (q : Params) (m : ModuleState) (a : Addr) (off : Nat) :
    memTarget q m a = .overflow off ↔ q.ramOverflow = .fault ∧ inRomWindow m a = false ∧
      2 ^ 19 ≤ offsetNumber m a ∧ off = offsetNumber m a := by
  rw [selectorFollowsWindowAndBank]
  split_ifs with hrom hpast
  · simp [hrom]
  · obtain ⟨hle, hpolicy⟩ := hpast
    rw [Target.overflow.injEq]
    exact ⟨fun h => ⟨hpolicy, by simpa using hrom, hle, h.symm⟩, fun ⟨_, _, _, h⟩ => h.symm⟩
  · simp only [false_iff]
    exact fun ⟨hpolicy, _, hle, _⟩ => hpast ⟨hle, hpolicy⟩

/-- R64: a RAM byte the selector gives lies at the offset modulo the size of the arena. -/
theorem toNat_of_memTarget_eq_ram {q : Params} {m : ModuleState} {a : Addr} {pa : PhysAddr}
    (h : memTarget q m a = .ram pa) : pa.toNat = offsetNumber m a % 2 ^ 19 := by
  rw [selectorFollowsWindowAndBank] at h
  split_ifs at h
  cases h
  exact BitVec.toNat_ofNat ..

/-- Settles O8: an offset lies past the arena exactly at BANKOFS 7 with a bank of 4 to 7, and then by less
than the arena's size. -/
theorem overflowExactlyAtBankOfsSeven : Obligations.OverflowExactlyAtBankOfsSeven := by
  intro q m a
  constructor
  · intro off
    rw [memTarget_eq_overflow_iff, arena_le_offsetNumber_iff]
    constructor
    · rintro ⟨hpolicy, hrom, ⟨hofs, hbank⟩, rfl⟩
      exact ⟨hpolicy, hrom, hofs, hbank, by rw [offsetNumber, hofs]⟩
    · rintro ⟨hpolicy, hrom, hofs, hbank, rfl⟩
      exact ⟨hpolicy, hrom, ⟨hofs, hbank⟩, by rw [offsetNumber, hofs]⟩
  · intro pa hpa
    have hlt := offsetNumber_lt m a
    rw [← offsetNumber, toNat_of_memTarget_eq_ram hpa]
    split_ifs with hseven
    · have hpast := (arena_le_offsetNumber_iff m a).mpr hseven
      omega
    · have hfit := mt (arena_le_offsetNumber_iff m a).mp hseven
      omega

/-! The decodes and the memory transactions at each target (R121 to R125). -/

theorem decodedRead_of_rom {i : ModuleIx} {a : Addr} {s : State}
    (h : inRomWindow (s.mod i) a = true) : decodedRead i a s = s.emit (.returned i
      (if (s.mod i).paging.getLsbD 4 then s.rom1.read (a.toNat % 16384)
        else s.rom0.read (a.toNat % 16384))) := by
  simp [decodedRead, memTarget_of_rom s.params h, State.romRead]

theorem decodedRead_of_ram {i : ModuleIx} {a : Addr} {s : State} {pa : PhysAddr}
    (h : memTarget s.params (s.mod i) a = .ram pa) :
    decodedRead i a s = s.emit (.returned i (s.ramRead pa)) := by
  simp [decodedRead, h]

theorem decodedRead_of_overflow {i : ModuleIx} {a : Addr} {s : State} {off : Nat}
    (h : memTarget s.params (s.mod i) a = .overflow off) :
    decodedRead i a s = raiseInternalFault (.ramOverflow i a off) s := by
  simp [decodedRead, h]

theorem decodedWrite_of_rom {i : ModuleIx} {a : Addr} {v : Byte} {s : State}
    (h : inRomWindow (s.mod i) a = true) : decodedWrite i a v s = s := by
  simp [decodedWrite, memTarget_of_rom s.params h]

theorem decodedWrite_of_ram {i : ModuleIx} {a : Addr} {v : Byte} {s : State} {pa : PhysAddr}
    (h : memTarget s.params (s.mod i) a = .ram pa) : decodedWrite i a v s = s.ramWrite pa v := by
  simp [decodedWrite, h]

theorem decodedWrite_of_overflow {i : ModuleIx} {a : Addr} {v : Byte} {s : State} {off : Nat}
    (h : memTarget s.params (s.mod i) a = .overflow off) :
    decodedWrite i a v s = raiseInternalFault (.ramOverflow i a off) s := by
  simp [decodedWrite, h]

theorem exec_mrd_of_handshakeOver {i : ModuleIx} (a : Addr) {s : State} (h : (s.mod i).rbc = 0) :
    exec (.mrd i a) s = .next (decodedRead i a s) :=
  congrArg _ (if_pos h)

@[simp] theorem State.setMod_setMod (s : State) (i : ModuleIx) (m n : ModuleState) :
    (s.setMod i m).setMod i n = s.setMod i n := by
  simp [State.setMod, Four.set_set]

/-- R122, R123: a module after its fetch at `a`, once the handshake is over: the address is recorded, and the
wait is set where the rendezvous check hits. -/
def fetchedModule (lock : Bool) (a : Addr) (m : ModuleState) : ModuleState := { m with
  lastFetch := a
  waitAsserted := m.waitAsserted || (!lock && m.rendezvousArmed && a == stopAddr m) }

theorem exec_mfetch_of_handshakeOver {i : ModuleIx} (a : Addr) {s : State}
    (h : (s.mod i).rbc = 0) : exec (.mfetch i a) s =
      .next ((decodedRead i a s).setMod i (fetchedModule s.cfg.lock a (s.mod i))) := by
  rw [← decodedRead_setMod i a s (fetchedModule s.cfg.lock a (s.mod i)) rfl rfl]
  refine congrArg Host.Outcome.next ?_
  simp [mfetch, h, rendezvousCheck_eq, fetchedModule, stopAddr]

theorem exec_mrd_of_ram {i : ModuleIx} {a : Addr} {s : State} {pa : PhysAddr}
    (hover : (s.mod i).rbc = 0) (h : memTarget s.params (s.mod i) a = .ram pa) :
    exec (.mrd i a) s = .next (s.emit (.returned i (s.ramRead pa))) :=
  (exec_mrd_of_handshakeOver a hover).trans (congrArg _ (decodedRead_of_ram h))

theorem exec_mwr_of_wrdis {i : ModuleIx} (a : Addr) (v : Byte) {s : State}
    (h : wrdis s.params (s.mod i) = true) : exec (.mwr i a v) s = .next s :=
  congrArg _ (if_pos h)

theorem exec_mwr_of_writable {i : ModuleIx} (a : Addr) (v : Byte) {s : State}
    (h : wrdis s.params (s.mod i) = false) : exec (.mwr i a v) s = .next (decodedWrite i a v s) :=
  congrArg _ (if_neg (by simp [h]))

/-- R152: the one thing a mapped write does to the modules. -/
theorem iowrMapped_mod (i : ModuleIx) (p : Port) (v : Byte) (s : State) (k : ModuleIx) :
    (iowrMapped i p v s).mod k =
      { s.mod k with latchNmi := (s.mod k).latchNmi || decide (k = i) } := by
  rw [iowrMapped, State.setMod_mod]
  by_cases h : k = i
  · simp [h]
  · simp [h]

/-! The statements about one memory transaction. -/

/-- Settles O11: the read decode in a ROM window, under both kinds of read. -/
theorem romWindowReads : Obligations.RomWindowReads := by
  intro s i a hover hrom
  rw [exec_mrd_of_handshakeOver a hover, exec_mfetch_of_handshakeOver a hover,
    decodedRead_of_rom hrom]
  exact ⟨rfl, _, rfl, rfl⟩

/-- Settles O12: the RAM byte at the offset's low 19 bits. -/
theorem ramReads : Obligations.RamReads := by
  intro s i a hover hrom hfit
  rw [exec_mrd_of_ram hover (memTarget_of_ram hrom hfit), State.ramRead, BitVec.toNat_ofNat]
  rfl

/-- Settles O15: under the default R0_LAYOUT, R0's bit 3 is WRDIS, which is tested before the window. -/
theorem writeDisableSuppressesWrites : Obligations.WriteDisableSuppressesWrites := by
  intro s i a v hlayout hbit
  have hwrdis : wrdis s.params (s.mod i) = true := by rw [wrdis, hlayout]; exact hbit
  exact exec_mwr_of_wrdis a v hwrdis

/-- Settles O16: WRDIS suppresses the write, or else a ROM target stores nothing. -/
theorem romWindowWritesIgnored : Obligations.RomWindowWritesIgnored := by
  intro s i a v hrom
  cases hwrdis : wrdis s.params (s.mod i) with
  | true => exact exec_mwr_of_wrdis a v hwrdis
  | false => rw [exec_mwr_of_writable a v hwrdis, decodedWrite_of_rom hrom]

/-- Settles O18: the selector gives the overflow, and each decode takes the fault there; the fetch has then
recorded its address. -/
theorem overflowRecordsTheFault : Obligations.OverflowRecordsTheFault := by
  intro s i a v hpolicy hrom hpast
  have htarget := memTarget_of_overflow hrom hpast hpolicy
  constructor
  · intro hwrdis
    rw [exec_mwr_of_writable a v hwrdis, decodedWrite_of_overflow htarget]
    rfl
  · intro hover
    rw [exec_mrd_of_handshakeOver a hover, exec_mfetch_of_handshakeOver a hover,
      decodedRead_of_overflow htarget]
    refine ⟨rfl, _, rfl, ?_, rfl, rfl⟩
    rw [State.setMod_mod_same]
    rfl

/-! A stored byte is read back (R77, R81, R85). -/

/-- Settles O19: the write changes neither module state nor the parameters, so the reader's address still
selects `pa`, where RAM holds the byte. -/
theorem storeIsSeenByTheNextRead : Obligations.StoreIsSeenByTheNextRead := by
  intro s u i j a b v pa hwf hwrdis hwrite hover hread h
  rw [exec_mwr_of_writable a v hwrdis, decodedWrite_of_ram hwrite] at h
  obtain rfl : s.ramWrite pa v = u := Host.Outcome.next.inj h
  replace hover : ((s.ramWrite pa v).mod j).rbc = 0 := hover
  replace hread : memTarget (s.ramWrite pa v).params ((s.ramWrite pa v).mod j) b = .ram pa := hread
  have hbyte : decodedRead j b (s.ramWrite pa v) = (s.ramWrite pa v).emit (.returned j v) := by
    simp [decodedRead_of_ram hread, State.ramRead_ramWrite hwf]
  rw [exec_mrd_of_handshakeOver b hover, exec_mfetch_of_handshakeOver b hover, hbyte]
  exact ⟨rfl, _, rfl, rfl⟩

/-- Settles O33: a mapped offset lies inside the arena, so the address selects the byte the mapped write
stored, and the write leaves R0 and the paging register alone. -/
theorem mappedWriteSeenByTarget : Obligations.MappedWriteSeenByTarget := by
  intro s u i p v a hwf hover hrom hoffset h
  obtain rfl : iowrMapped i p v s = u := Host.Outcome.next.inj h
  have hpa : (mappedPa (s.mod s.cfg.mapped) p).toNat = offsetNumber (s.mod s.cfg.mapped) a := by
    rw [hoffset, mappedPa_toNat, bankOfs, mappedNumber]
    simp
  have htarget : memTarget s.params (s.mod s.cfg.mapped) a =
      .ram (mappedPa (s.mod s.cfg.mapped) p) := by
    rw [memTarget_of_ram hrom (.inr (hpa ▸ BitVec.isLt _)), ← hpa, BitVec.ofNat_toNat,
      BitVec.setWidth_eq]
  have hafter : memTarget s.params ((iowrMapped i p v s).mod s.cfg.mapped) a =
      .ram (mappedPa (s.mod s.cfg.mapped) p) := by
    rw [iowrMapped_mod, ← htarget]
    exact memTarget_congr _ rfl rfl a
  rw [exec_mrd_of_ram (by rw [iowrMapped_mod]; exact hover) hafter]
  simp [iowrMapped, State.ramRead_ramWrite hwf, State.emit]

end Sys2Proof.Machine
end

section
/-! PROOFS. The statements about the words (30_encoding.md): the decoder and the encoder are inverse to each
other on the well-formed instructions; the words that a step refuses are those that R94 calls Invalid; the
words of the CpuCores' calls. -/

namespace Sys2Proof.Machine

/-! Of the rows that a port access could be, the well-formed one is the row it decodes to (R101, R112). -/

/-- R112: the rows for a read of port `p` by `i`. -/
def portReadRows (i : ModuleIx) (p : Port) : List Instr :=
  [.iordCtrl i p, .iordStatus i p, .iordCfg i p, .iordMapped i p, .iordDev i p]

/-- R112: the rows for a write of `v` to port `p` by `i`. -/
def portWriteRows (i : ModuleIx) (p : Port) (v : Byte) : List Instr :=
  [.iowrCtrl i p v, .iowrPaging i p v, .iowrCfg i p v, .iowrMapped i p v, .iowrDev i p v]

theorem mem_portReadRows {i : ModuleIx} {p : Port} {ins : Instr} : ins ∈ portReadRows i p ↔
    ins = .iordCtrl i p ∨ ins = .iordStatus i p ∨ ins = .iordCfg i p ∨ ins = .iordMapped i p ∨
      ins = .iordDev i p := by
  simp [portReadRows]

theorem mem_portWriteRows {i : ModuleIx} {p : Port} {v : Byte} {ins : Instr} :
    ins ∈ portWriteRows i p v ↔
      ins = .iowrCtrl i p v ∨ ins = .iowrPaging i p v ∨ ins = .iowrCfg i p v ∨
        ins = .iowrMapped i p v ∨ ins = .iowrDev i p v := by
  simp [portWriteRows]

theorem encode_of_mem_portReadRows {i : ModuleIx} {p : Port} {ins : Instr}
    (h : ins ∈ portReadRows i p) : encode ins = pack i 3 p 0 := by
  rcases mem_portReadRows.mp h with rfl | rfl | rfl | rfl | rfl <;> rfl

theorem encode_of_mem_portWriteRows {i : ModuleIx} {p : Port} {v : Byte} {ins : Instr}
    (h : ins ∈ portWriteRows i p v) : encode ins = pack i 4 p v := by
  rcases mem_portWriteRows.mp h with rfl | rfl | rfl | rfl | rfl <;> rfl

theorem dispatchRead_eq_iff {q : Params} {i : ModuleIx} {p : Port} {ins : Instr} :
    dispatchRead q i p = ins ↔ ins ∈ portReadRows i p ∧ wfInstr q ins = true := by
  constructor
  · rintro rfl
    rw [mem_portReadRows]
    rcases dispatchRead_cases q i p with ⟨h, e⟩ | ⟨h, e⟩ | ⟨h, e⟩ | ⟨h, hm, e⟩ | ⟨h, hm, e⟩ <;>
      simp [wfInstr, *]
  · rintro ⟨hrow, hwf⟩
    rcases mem_portReadRows.mp hrow with rfl | rfl | rfl | rfl | rfl <;>
      simp only [wfInstr, claimsPaging, claimsCfg, isUnclaimed, Bool.and_eq_true,
        Bool.not_eq_true'] at hwf <;>
      simp [dispatchRead, hwf]

theorem dispatchWrite_eq_iff {q : Params} {i : ModuleIx} {p : Port} {v : Byte} {ins : Instr} :
    dispatchWrite q i p v = ins ↔ ins ∈ portWriteRows i p v ∧ wfInstr q ins = true := by
  constructor
  · rintro rfl
    rw [mem_portWriteRows]
    rcases dispatchWrite_cases q i p v with ⟨h, e⟩ | ⟨h, e⟩ | ⟨h, e⟩ | ⟨h, hm, e⟩ | ⟨h, hm, e⟩ <;>
      simp [wfInstr, *]
  · rintro ⟨hrow, hwf⟩
    rcases mem_portWriteRows.mp hrow with rfl | rfl | rfl | rfl | rfl <;>
      simp only [wfInstr, claimsPaging, claimsCfg, isUnclaimed, Bool.and_eq_true,
        Bool.not_eq_true'] at hwf <;>
      simp [dispatchWrite, hwf]

/-! From an instruction to its word and back (R90 to R93). -/

theorem decode_encode {q : Params} {ins : Instr} (hwf : wfInstr q ins = true) :
    decode q (encode ins) = .ok ins := by
  cases ins with
  | mrd | mfetch | mwr | inta | reti | hostSnapshot | hostCancel => exact decode_pack ..
  | hostTick r n => cases r <;> cases n <;> exact decode_pack ..
  | iordCtrl i p | iordStatus i p | iordCfg i p | iordMapped i p | iordDev i p =>
    refine (decode_pack q i 3 p 0).trans (congrArg Except.ok ?_)
    exact dispatchRead_eq_iff.mpr ⟨mem_portReadRows.mpr (by simp), hwf⟩
  | iowrCtrl i p v | iowrPaging i p v | iowrCfg i p v | iowrMapped i p v | iowrDev i p v =>
    refine (decode_pack q i 4 p v).trans (congrArg Except.ok ?_)
    exact dispatchWrite_eq_iff.mpr ⟨mem_portWriteRows.mpr (by simp), hwf⟩

/-- Settles O1: a row without a port is decoded from its own fields, and a port row is the one well-formed row
of its port. -/
theorem decodeEncodeAgree : Obligations.DecodeEncodeAgree :=
  fun _ _ hwf => decode_encode hwf

/-! What the fields of a word decode to, by KIND (R91 to R93). -/

theorem kind_cases (k : BitVec 3) :
    k = 0#3 ∨ k = 1#3 ∨ k = 2#3 ∨ k = 3#3 ∨ k = 4#3 ∨ k = 5#3 ∨ k = 6#3 ∨ k = 7#3 := by
  revert k; decide

section
variable (q : Params) (i : ModuleIx) (a : BitVec 16) (d : Byte)

theorem decodeFields_mrd : decodeFields q i 0#3 a d =
    if d ≠ 0 then .error .dataNotZero else .ok (.mrd i a) := rfl
theorem decodeFields_mfetch : decodeFields q i 1#3 a d =
    if d ≠ 0 then .error .dataNotZero else .ok (.mfetch i a) := rfl
theorem decodeFields_mwr : decodeFields q i 2#3 a d = .ok (.mwr i a d) := rfl
theorem decodeFields_portRead : decodeFields q i 3#3 a d =
    if d ≠ 0 then .error .dataNotZero else .ok (dispatchRead q i a) := rfl
theorem decodeFields_portWrite : decodeFields q i 4#3 a d = .ok (dispatchWrite q i a d) := rfl
theorem decodeFields_inta : decodeFields q i 5#3 a d =
    if a ≠ 0 then .error .addrNotZero else if d ≠ 0 then .error .dataNotZero else .ok (.inta i) := rfl
theorem decodeFields_reti : decodeFields q i 6#3 a d =
    if a ≠ 0 then .error .addrNotZero else if d ≠ 0 then .error .dataNotZero else .ok (.reti i) := rfl
theorem decodeFields_host : decodeFields q i 7#3 a d = decodeHost i a d := rfl

end

/-- A guarded decoder answers an instruction where the guard lets the word through. -/
theorem guard_eq_ok_iff {ε α : Type} {c : Prop} [Decidable c] {e : ε} {r : Except ε α} {x : α} :
    (if c then .error e else r) = Except.ok x ↔ ¬c ∧ r = .ok x := by
  split <;> simp [*]

/-- A guarded decoder refuses a word where the guard or what it guards does. -/
theorem guard_refuses_iff {ε α : Type} {c : Prop} [Decidable c] {e : ε} {r : Except ε α} :
    (∃ e', (if c then .error e else r) = Except.error e') ↔ c ∨ ∃ e', r = .error e' := by
  split <;> simp [*]

/-! From a word to its instruction and back (R112, R113). -/

/-- R93: the ADDR field of a host command is its HOSTOP above eight zero bits. -/
theorem hostAddr_eq {a : BitVec 16} {op : Nat} (hlow : a.extractLsb' 0 8 = 0)
    (hop : (a.extractLsb' 8 8).toNat = op) : a = BitVec.ofNat 16 (op * 256) := by
  have hlow : a.toNat % 256 = 0 := by simpa using congrArg BitVec.toNat hlow
  have hop : a.toNat / 256 % 256 = op := by simpa [Nat.shiftRight_eq_div_pow] using hop
  apply BitVec.eq_of_toNat_eq
  rw [BitVec.toNat_ofNat]
  omega

theorem tickData_getLsbD {d : Byte} (h : d.extractLsb' 2 6 = 0) :
    tickData (d.getLsbD 0) (d.getLsbD 1) = d := by
  revert d; decide

theorem encode_of_decodeHost {i : ModuleIx} {a : BitVec 16} {d : Byte} {ins : Instr}
    (h : decodeHost i a d = .ok ins) (q : Params) :
    wfInstr q ins = true ∧ encode ins = pack i 7 a d := by
  simp only [decodeHost, guard_eq_ok_iff, ne_eq, not_not] at h
  obtain ⟨rfl, hlow, h⟩ := h
  split at h
  case h_1 hop =>
    obtain ⟨hd, rfl⟩ : d.extractLsb' 2 6 = 0 ∧ .hostTick (d.getLsbD 0) (d.getLsbD 1) = ins := by
      simpa only [guard_eq_ok_iff, not_not, Except.ok.injEq] using h
    rw [hostAddr_eq hlow hop, encode, tickData_getLsbD hd]
    exact ⟨rfl, rfl⟩
  case h_2 hop | h_3 hop =>
    obtain ⟨rfl, hins⟩ : d = 0 ∧ _ = ins := by
      simpa only [guard_eq_ok_iff, not_not, Except.ok.injEq] using h
    rw [hostAddr_eq hlow hop, ← hins]
    exact ⟨rfl, rfl⟩
  case h_4 => cases h

theorem encode_of_decodeFields {q : Params} {i : ModuleIx} {k : BitVec 3} {a : BitVec 16} {d : Byte}
    {ins : Instr} (h : decodeFields q i k a d = .ok ins) :
    wfInstr q ins = true ∧ encode ins = pack i k a d := by
  rcases kind_cases k with rfl | rfl | rfl | rfl | rfl | rfl | rfl | rfl <;>
    simp only [decodeFields_mrd, decodeFields_mfetch, decodeFields_mwr, decodeFields_portRead,
      decodeFields_portWrite, decodeFields_inta, decodeFields_reti, decodeFields_host,
      guard_eq_ok_iff, ne_eq, not_not, Except.ok.injEq, dispatchRead_eq_iff,
      dispatchWrite_eq_iff] at h
  · obtain ⟨rfl, rfl⟩ := h; exact ⟨rfl, rfl⟩
  · obtain ⟨rfl, rfl⟩ := h; exact ⟨rfl, rfl⟩
  · obtain rfl := h; exact ⟨rfl, rfl⟩
  · obtain ⟨rfl, hrow, hwf⟩ := h
    exact ⟨hwf, encode_of_mem_portReadRows hrow⟩
  · obtain ⟨hrow, hwf⟩ := h
    exact ⟨hwf, encode_of_mem_portWriteRows hrow⟩
  · obtain ⟨rfl, rfl, rfl⟩ := h; exact ⟨rfl, rfl⟩
  · obtain ⟨rfl, rfl, rfl⟩ := h; exact ⟨rfl, rfl⟩
  · exact encode_of_decodeHost h q

/-- R112, R113: the words that decode are those of the well-formed instructions. -/
theorem decode_eq_ok_iff {q : Params} {w : Btw} {ins : Instr} :
    decode q w = .ok ins ↔ wfInstr q ins = true ∧ encode ins = w := by
  constructor
  · intro h
    rw [decode, guard_eq_ok_iff, ne_eq, not_not] at h
    obtain ⟨hmbz, hfields⟩ := h
    obtain ⟨hwf, hword⟩ := encode_of_decodeFields hfields
    exact ⟨hwf, hword.trans (pack_fields w hmbz)⟩
  · rintro ⟨hwf, rfl⟩
    exact decode_encode hwf

/-- Settles O2: the decoder's answer is the one well-formed instruction whose word this is, and where it
answers none there is none. -/
theorem everyWordIsOneRowOrInvalid : Obligations.EveryWordIsOneRowOrInvalid := by
  intro q w
  cases h : decode q w with
  | ok ins =>
    obtain ⟨hwf, hword⟩ := decode_eq_ok_iff.mp h
    refine .inl ⟨ins, rfl, hwf, hword, fun j hj hjw => ?_⟩
    exact Except.ok.inj ((decode_eq_ok_iff.mpr ⟨hj, hjw⟩).symm.trans h)
  | error e =>
    refine .inr ⟨e, rfl, fun j hj hjw => ?_⟩
    cases (decode_eq_ok_iff.mpr ⟨hj, hjw⟩).symm.trans h

/-- Settles O4: each word is that of its instruction, which is well-formed under the default parameters. -/
theorem specWordsDecode : Obligations.SpecWordsDecode := by
  simp only [Obligations.SpecWordsDecode, decode_eq_ok_iff]
  decide

/-! The words that are Invalid (R94). -/

theorem decodeHost_refuses_iff (i : ModuleIx) (a : BitVec 16) (d : Byte) :
    (∃ e, decodeHost i a d = .error e) ↔
      i ≠ 0 ∨ a.extractLsb' 0 8 ≠ 0 ∨ 3 ≤ (a.extractLsb' 8 8).toNat ∨
        (a.extractLsb' 8 8 = 0 ∧ d.extractLsb' 2 6 ≠ 0) ∨ (a.extractLsb' 8 8 ≠ 0 ∧ d ≠ 0) := by
  rw [decodeHost, guard_refuses_iff, guard_refuses_iff]
  refine or_congr_right (or_congr_right ?_)
  generalize a.extractLsb' 8 8 = op
  have hzero : op = 0 ↔ op.toNat = 0 := by rw [← BitVec.toNat_inj]; rfl
  rw [ne_eq op, hzero]
  split
  case h_1 hop | h_2 hop | h_3 hop => rw [guard_refuses_iff]; simp [hop]
  case h_4 htick hsnapshot hcancel =>
    have hunassigned : 3 ≤ op.toNat := by
      by_contra hlt
      interval_cases hop : op.toNat <;> contradiction
    simp [hunassigned]

theorem decodeFields_refuses_iff (q : Params) (i : ModuleIx) (k : BitVec 3) (a : BitVec 16) (d : Byte) :
    (∃ e, decodeFields q i k a d = .error e) ↔
      ((k = 0 ∨ k = 1 ∨ k = 3) ∧ d ≠ 0) ∨ ((k = 5 ∨ k = 6) ∧ (a ≠ 0 ∨ d ≠ 0)) ∨
        (k = 7 ∧ ∃ e, decodeHost i a d = .error e) := by
  rcases kind_cases k with rfl | rfl | rfl | rfl | rfl | rfl | rfl | rfl <;>
    simp only [decodeFields_mrd, decodeFields_mfetch, decodeFields_mwr, decodeFields_portRead,
      decodeFields_portWrite, decodeFields_inta, decodeFields_reti, decodeFields_host,
      guard_refuses_iff] <;> simp

theorem decode_refuses_iff (q : Params) (w : Btw) : (∃ e, decode q w = .error e) ↔
    btwMbz w ≠ 0 ∨
      ∃ e, decodeFields q (btwInit w) (btwKind w) (btwAddr w) (btwData w) = .error e := by
  rw [decode, guard_refuses_iff]

/-- A field of a field of a word is a field of the word. -/
theorem extractLsb'_extractLsb' {m : Nat} (w : BitVec m) {start len start' len' : Nat}
    (h : start' + len' ≤ len) :
    (w.extractLsb' start len).extractLsb' start' len' = w.extractLsb' (start + start') len' := by
  ext j hj
  have hin : start' + j < len := by omega
  simp [hin, Nat.add_assoc]

theorem ixOfBits_eq_zero_iff (b : BitVec 2) : ixOfBits b = 0 ↔ b = 0 := by
  revert b; decide

/-- R90: bits 23:0 are ADDR above DATA. -/
theorem low24_eq_zero_iff (w : Btw) : w.extractLsb' 0 24 = 0 ↔ btwAddr w = 0 ∧ btwData w = 0 := by
  simp only [btwAddr, btwData, ← BitVec.toNat_inj, BitVec.extractLsb'_toNat,
    Nat.shiftRight_eq_div_pow, BitVec.ofNat_eq_ofNat, BitVec.toNat_ofNat]
  omega

/-- The refusal of an Invalid word is raised by `step` alone: of the instructions only TICK is ever refused
(R176), under other names. -/
theorem exec_ne_invalidWord (ins : Instr) (s : State) (e : DecodeError) :
    exec ins s ≠ .refused (.invalidWord e) := by
  intro h
  cases ins with
  | hostTick r n =>
    simp only [exec, execHostTick] at h
    split at h
    · cases h
    · split at h <;> cases h
  | _ => cases h

theorem step_eq_invalidWord_iff {s : State} {w : Btw} {rest : List Btw} (h : s.pending = w :: rest)
    (e : DecodeError) : step s = .refused (.invalidWord e) ↔ decode s.params w = .error e := by
  simp only [step, takeWord_cons h]
  split
  · next ins hd => simp [hd, exec_ne_invalidWord]
  · next e' hd => simp [hd]

/-- Settles O3: a step refuses as invalid what the decoder refuses, and the decoder's guards are the
conditions of R94, told by the fields of the word. -/
theorem stepRefusesExactlyInvalidWords : Obligations.StepRefusesExactlyInvalidWords := by
  intro s w rest hp
  have hlow : (btwAddr w).extractLsb' 0 8 = w.extractLsb' 8 8 := extractLsb'_extractLsb' w (by omega)
  have hop : (btwAddr w).extractLsb' 8 8 = w.extractLsb' 16 8 := extractLsb'_extractLsb' w (by omega)
  have hdata : (btwData w).extractLsb' 2 6 = w.extractLsb' 2 6 := extractLsb'_extractLsb' w (by omega)
  have hinit : btwInit w = 0 ↔ w.extractLsb' 30 2 = 0 := ixOfBits_eq_zero_iff _
  simp only [step_eq_invalidWord_iff hp, decode_refuses_iff, decodeFields_refuses_iff,
    decodeHost_refuses_iff, hlow, hop, hdata, hinit, low24_eq_zero_iff, ne_eq, not_and_or]
  rfl

/-! The words of the CpuCores' calls (R170). -/

/-- Settles O6: what `exec_encodeCall` says of every call. -/
theorem tickCallsAreTheirWords : Obligations.TickCallsAreTheirWords := by
  intro s i c
  obtain ⟨ins, hword, -, hexec⟩ := exec_encodeCall s i c
  exact ⟨ins, hword, hexec⟩

end Sys2Proof.Machine
end

section
/-! PROOFS. The statements about the control ports in the literal form and about the paging register
(30_encoding.md R97, R103). -/

namespace Sys2Proof.Machine

/-! The control ports (R96, R97, R142, R143). -/

/-- R96, R97: bits 9:8 of a control port are its register, whatever its bits 13:12. -/
theorem ctrlReg_ofNat (m r : Fin 4) :
    ctrlReg (BitVec.ofNat 16 (m.val * 4096 + r.val * 256 + 255)) = r := by
  revert m r; decide

theorem ctrlTarget_of_literal {q : Params} (h : q.ctrlPortForm = .literal) (i : ModuleIx) (p : Port) :
    ctrlTarget q i p = i := by
  rw [ctrlTarget, h]

theorem iowrCtrl_of_accepted {i : ModuleIx} {p : Port} {s : State}
    (h : ctrlWriteAccepted s.cfg i (ctrlTarget s.params i p) = true) (v : Byte) :
    iowrCtrl i p v s = ctrlAccept (ctrlTarget s.params i p) (ctrlReg p) v s := if_pos h

theorem ctrlAccept_mod_same (t : ModuleIx) (r : RegIx) (v : Byte) (s : State) :
    (ctrlAccept t r v s).mod t = acceptedWrite s.params r v (s.mod t) :=
  State.setMod_mod_same ..

theorem ctrlAccept_mod_ne {t k : ModuleIx} (h : k ≠ t) (r : RegIx) (v : Byte) (s : State) :
    (ctrlAccept t r v s).mod k = s.mod k :=
  State.setMod_mod_ne _ _ h

/-- Settles O21: in the literal form the target is the initiator, whose own write is accepted while LOCK
is 0. -/
theorem literalControlPortsReachOwnRegisters : Obligations.LiteralControlPortsReachOwnRegisters := by
  intro s i r v hform
  have hself := ctrlTarget_of_literal hform i (BitVec.ofNat 16 (r.val * 4096 + r.val * 256 + 255))
  have hreg := ctrlReg_ofNat r r
  generalize BitVec.ofNat 16 (r.val * 4096 + r.val * 256 + 255) = p at hself hreg
  constructor
  · have hread : iordCtrl i p s = s.emit (.returned i ((s.mod i).r.get r)) := by
      rw [iordCtrl, hself, hreg]
    exact congrArg Host.Outcome.next hread
  · intro hlock
    have haccepted : ctrlWriteAccepted s.cfg i i = true :=
      (ctrlWriteAccepted_iff _ _ _).mpr ⟨hlock, le_rfl⟩
    have hwrite : iowrCtrl i p v s = ctrlAccept i r v s := by
      rw [iowrCtrl_of_accepted (hself.symm ▸ haccepted), hself, hreg]
    refine ⟨_, congrArg Host.Outcome.next hwrite, ?_, rfl, fun k hk => ctrlAccept_mod_ne hk r v s⟩
    rw [ctrlAccept_mod_same, acceptedWrite_eq]

/-! The paging register (R103, R147). -/

theorem pagingOfByte_toNat (v : Byte) : (pagingOfByte v).toNat = v.toNat % 128 := by
  simp [pagingOfByte]

theorem exec_iowrPaging_of_locked {i : ModuleIx} {s : State} (h : pagingLock (s.mod i) = true)
    (p : Port) (v : Byte) : exec (.iowrPaging i p v) s = .next s :=
  congrArg _ (if_pos h)

theorem exec_iowrPaging_of_unlocked {i : ModuleIx} {s : State} (h : pagingLock (s.mod i) = false)
    (p : Port) (v : Byte) : exec (.iowrPaging i p v) s =
      .next (s.setMod i { s.mod i with paging := pagingOfByte v }) :=
  congrArg _ (if_neg (by simp [h]))

/-- Settles O25: the two branches of the lock. -/
theorem pagingWrite : Obligations.PagingWrite := by
  intro s i p v
  refine ⟨fun hunlocked => ?_, fun hlocked => exec_iowrPaging_of_locked hlocked p v⟩
  refine ⟨_, exec_iowrPaging_of_unlocked hunlocked p v, rfl,
    fun k hk => State.setMod_mod_ne s _ hk, ?_⟩
  rw [State.setMod_mod_same]
  exact ⟨rfl, pagingOfByte_toNat v⟩

end Sys2Proof.Machine
end

section
/-! PROOFS. The statements about the memory transactions and their module state (40_bus_memory.md): what a read
does during the handshake, what a fetch adds to a data read, when the rendezvous wait is asserted, what a
write stores, and which of its parts a module's own transactions alone reach. -/

namespace Sys2Proof.Machine

/-! One read of the handshake (R120 to R122). -/

/-- R120: the register a read shows at counter `c`, which is register 4 − c. -/
def mailboxIx (c : Fin 4) : RegIx := 3 - (c - 1)

theorem mailboxIx_val {c : Fin 4} (h : c ≠ 0) : (mailboxIx c).val + c.val = 4 := by
  revert c; decide

theorem rbc_pred_val {c : Fin 4} (h : c ≠ 0) : (c - 1).val + 1 = c.val := by
  revert c; decide

/-- R120: the state after one read of the handshake that leaves the initiator's module as `n`. -/
def handshakeRead (i : ModuleIx) (n : ModuleState) (s : State) : State :=
  (s.setMod i n).emit (.returned i ((s.mod i).r.get (mailboxIx (s.mod i).rbc)))

theorem handshakeRead_eq (i : ModuleIx) (n : ModuleState) (s : State) : handshakeRead i n s = { s with
    mods := (handshakeRead i n s).mods
    out := s.out ++ [.returned i ((s.mod i).r.get (mailboxIx (s.mod i).rbc))] } := rfl

@[simp] theorem handshakeRead_mod_same (i : ModuleIx) (n : ModuleState) (s : State) :
    (handshakeRead i n s).mod i = n :=
  State.setMod_mod_same s i n

theorem handshakeRead_mod_ne {i k : ModuleIx} (h : k ≠ i) (n : ModuleState) (s : State) :
    (handshakeRead i n s).mod k = s.mod k :=
  State.setMod_mod_ne s n h

theorem exec_mrd_of_handshake {i : ModuleIx} (a : Addr) {s : State} (h : (s.mod i).rbc ≠ 0) :
    exec (.mrd i a) s =
      .next (handshakeRead i { s.mod i with rbc := (s.mod i).rbc - 1 } s) :=
  congrArg _ (if_neg h)

theorem exec_mfetch_of_handshake {i : ModuleIx} (a : Addr) {s : State} (h : (s.mod i).rbc ≠ 0) :
    exec (.mfetch i a) s = .next
      (handshakeRead i { s.mod i with rbc := (s.mod i).rbc - 1, lastFetch := a } s) := by
  refine congrArg Host.Outcome.next ?_
  simp [mfetch, h, readback, handshakeRead, mailboxIx]

/-- Settles O9: both kinds of read are the one read of the handshake, and the fetch records its address in the
module it leaves. -/
theorem readbackReadsReturnMailboxes : Obligations.ReadbackReadsReturnMailboxes := by
  intro s i a h
  refine ⟨_, _, _, mailboxIx_val h, exec_mrd_of_handshake a h, exec_mfetch_of_handshake a h,
    handshakeRead_eq _ _ _, handshakeRead_eq _ _ _, ?_, ?_, ?_,
    fun k hk => ⟨handshakeRead_mod_ne hk _ _, handshakeRead_mod_ne hk _ _⟩⟩
  · rw [handshakeRead_mod_same]
    exact rbc_pred_val h
  · simp only [handshakeRead_mod_same]
  · simp only [handshakeRead_mod_same]

/-! The whole handshake (R120, R130). -/

/-- R120: what a read of either kind does in the handshake when it shows register `r` of the initiator. -/
structure ShowsRegister (i : ModuleIx) (r : RegIx) (s t : State) : Prop where
  frame : t = { s with mods := t.mods, out := s.out ++ [.returned i ((s.mod i).r.get r)] }
  regs : (t.mod i).r = (s.mod i).r
  counter : r.val + 1 + (t.mod i).rbc.val = 4
  others : ∀ k, k ≠ i → t.mod k = s.mod k

theorem exec_read_showsRegister {s : State} {i : ModuleIx} {r : RegIx} {w : Instr}
    (hw : ∃ a, w = .mrd i a ∨ w = .mfetch i a) (hr : r.val + (s.mod i).rbc.val = 4) :
    ∃ t, exec w s = .next t ∧ ShowsRegister i r s t := by
  have hrbc : (s.mod i).rbc ≠ 0 := fun h => by rw [h] at hr; omega
  obtain ⟨a, hw⟩ := hw
  obtain ⟨t, u, r', hr', ht, hu, htframe, huframe, hcount, htmod, humod, hothers⟩ :=
    readbackReadsReturnMailboxes s i a hrbc
  obtain rfl : r = r' := Fin.ext (by omega)
  have hnext : r.val + 1 + (t.mod i).rbc.val = 4 := by omega
  rcases hw with rfl | rfl
  · exact ⟨t, ht, htframe, by rw [htmod], hnext, fun k hk => (hothers k hk).1⟩
  · exact ⟨u, hu, huframe, by rw [humod], by rw [humod]; exact hnext,
      fun k hk => (hothers k hk).2⟩

/-- Settles O10: three reads of the handshake in a row, each of which leaves the counter at the next
register. -/
theorem handshakeShowsR1R2R3 : Obligations.HandshakeShowsR1R2R3 := by
  intro s i x y z hrbc hreads
  have hfirst : (1 : RegIx).val + (s.mod i).rbc.val = 4 := by rw [hrbc]; rfl
  obtain ⟨t, ht, hst⟩ := exec_read_showsRegister (hreads x (.inl rfl)) hfirst
  obtain ⟨u, hu, htu⟩ := exec_read_showsRegister (r := 2) (hreads y (.inr (.inl rfl))) hst.counter
  obtain ⟨v, hv, huv⟩ := exec_read_showsRegister (r := 3) (hreads z (.inr (.inr rfl))) htu.counter
  have hdone : (v.mod i).rbc = 0 := by
    have hcount := huv.counter
    exact Fin.ext (by simpa using hcount)
  have hout : v.out = s.out ++ [.returned i ((s.mod i).r.get 1), .returned i ((s.mod i).r.get 2),
      .returned i ((s.mod i).r.get 3)] := by
    rw [huv.frame, htu.regs, hst.regs, htu.frame, hst.regs, hst.frame]
    simp
  have hframe : v = { s with mods := v.mods, out := v.out } := by
    rw [huv.frame, htu.frame, hst.frame]
  exact ⟨t, u, v, ht, hu, hv, hout, hdone, hframe, fun k hk =>
    (huv.others k hk).trans ((htu.others k hk).trans (hst.others k hk))⟩

/-! A fetch after the handshake, and the rendezvous (R122 to R124). -/

/-- R124: a read decode changes at most the host marks and what is given out. -/
theorem decodedRead_eq (i : ModuleIx) (a : Addr) (s : State) : decodedRead i a s =
    { s with host := (decodedRead i a s).host, out := (decodedRead i a s).out } := by
  rcases decodedRead_cases i a s with ⟨v, h⟩ | ⟨off, -, -, h⟩ <;> rw [h] <;> rfl

theorem decodedRead_mod (i : ModuleIx) (a : Addr) (s : State) (k : ModuleIx) :
    (decodedRead i a s).mod k = s.mod k :=
  congrArg (·.get k) (decodedRead_mods i a s)

/-- Settles O13: a fetch is the data read's decode with the initiator's module put back as fetched. -/
theorem fetchIsReadWithRecord : Obligations.FetchIsReadWithRecord := by
  intro s i a hover
  refine ⟨_, _, exec_mrd_of_handshakeOver a hover, exec_mfetch_of_handshakeOver a hover,
    decodedRead_eq i a s, rfl, ?_, fun k hk => ?_⟩
  · rw [State.setMod_mod_same]
    rfl
  · rw [State.setMod_mod_ne _ _ hk, decodedRead_mod]

/-- R27, R106: the stop address in numbers. -/
theorem eq_stopAddr_iff (a : Addr) (m : ModuleState) :
    a = stopAddr m ↔ a.toNat = (m.r.get 3).toNat * 256 + (m.r.get 2).toNat := by
  have hlow : (m.r.get 2).toNat < 2 ^ 8 := (m.r.get 2).isLt
  rw [← BitVec.toNat_inj, stopAddr, BitVec.toNat_append, ← Nat.shiftLeft_add_eq_or_of_lt hlow,
    Nat.shiftLeft_eq]

theorem fetchedModule_waitAsserted_iff (lock : Bool) (a : Addr) (m : ModuleState) :
    (fetchedModule lock a m).waitAsserted = true ↔ m.waitAsserted = true ∨
      (lock = false ∧ m.rendezvousArmed = true ∧
        a.toNat = (m.r.get 3).toNat * 256 + (m.r.get 2).toNat) := by
  simp [fetchedModule, eq_stopAddr_iff, and_assoc]

/-- No module's rendezvous wait goes from 0 to 1. -/
def RaisesNoWait (s t : State) : Prop :=
  ∀ k, (t.mod k).waitAsserted = true → (s.mod k).waitAsserted = true

theorem RaisesNoWait.of_mods {s t : State} (h : t.mods = s.mods) : RaisesNoWait s t := by
  intro k
  rw [State.mod, h]
  exact id

/-- Where one module alone is replaced, its wait decides. -/
theorem RaisesNoWait.of_set {s t : State} {i : ModuleIx} {n : ModuleState}
    (h : t.mods = s.mods.set i n) (hn : n.waitAsserted = true → (s.mod i).waitAsserted = true) :
    RaisesNoWait s t := by
  intro k
  rw [State.mod, h, Four.get_set]
  split
  · next hk => rw [hk]; exact hn
  · exact id

theorem acceptedWrite_waitAsserted {q : Params} {r : RegIx} {v : Byte} {m : ModuleState}
    (h : (acceptedWrite q r v m).waitAsserted = true) : m.waitAsserted = true := by
  rw [acceptedWrite_eq] at h
  exact (Bool.and_eq_true_iff.mp h).1

/-- R123: only a fetch asserts the wait; an accepted control write may release it (R145). -/
theorem exec_raisesNoWait {s t : State} {ins : Instr} {i : ModuleIx} (hi : initiator ins = some i)
    (hfetch : ∀ a, ins ≠ .mfetch i a) (h : exec ins s = .next t) : RaisesNoWait s t := by
  cases ins <;> cases hi <;> cases h
  case mfetch a => exact absurd rfl (hfetch a)
  case mrd =>
    unfold mrd
    split
    · exact .of_mods (decodedRead_mods _ _ _)
    · exact .of_set rfl id
  case mwr => exact .of_mods (mwr_mods _ _ _ _)
  case iowrCtrl =>
    unfold iowrCtrl
    split
    · exact .of_set rfl acceptedWrite_waitAsserted
    · exact .of_mods rfl
  case iowrPaging =>
    unfold iowrPaging
    split
    · exact .of_mods rfl
    · exact .of_set rfl id
  case iowrCfg => exact .of_mods (iowrCfg_mods _ _ _)
  case iordDev => exact .of_mods (iordDev_mods _ _ _)
  case iowrDev => exact .of_mods (iowrDev_mods _ _ _ _)
  case iordMapped | iowrMapped => exact .of_set rfl id
  case iordCtrl | iordStatus | iordCfg | inta | reti => exact .of_mods rfl

/-- Settles O14: after the handshake the check of `fetchedModule` decides, during it a fetch makes no check,
and no other transaction raises a wait. -/
theorem rendezvousDetection : Obligations.RendezvousDetection := by
  intro s i a
  refine ⟨fun hover => ?_, fun hcounting => ?_, fun ins t k hi hfetch h =>
    exec_raisesNoWait hi hfetch h k⟩
  · refine ⟨_, exec_mfetch_of_handshakeOver a hover, ?_⟩
    rw [State.setMod_mod_same]
    exact fetchedModule_waitAsserted_iff s.cfg.lock a (s.mod i)
  · refine ⟨_, exec_mfetch_of_handshake a hcounting, ?_⟩
    rw [handshakeRead_mod_same]

/-! A write that reaches RAM (R125). -/

/-- Settles O17: the write is the one store at the selector's byte, and RAM in canonical form reads back what
was stored. -/
theorem ramWriteStoresOneByte : Obligations.RamWriteStoresOneByte := by
  intro s i a v pa hwf hwrdis htarget
  have hstore : exec (.mwr i a v) s = .next (s.ramWrite pa v) := by
    rw [exec_mwr_of_writable a v hwrdis, decodedWrite_of_ram htarget]
  exact ⟨_, hstore, rfl, fun x => State.ramRead_ramWrite hwf pa x v⟩

/-! What only a module's own transactions change (R30, R31, R32, R36, R126). -/

/-- Settles O36: an own change is to the initiator and keeps HALT, and an accepted control write reaches none
of these parts of its target. -/
theorem pagingAndFetchStateAreOwn : Obligations.PagingAndFetchStateAreOwn := by
  intro s t ins i k hi h
  rcases exec_mod_cases hi h k with hsame | ⟨hk, hown⟩ | ⟨p, v, -, -, -, hwrite⟩
  · rw [hsame]
    exact ⟨rfl, fun _ => ⟨rfl, rfl, rfl⟩⟩
  · exact ⟨by rw [hown.frame], fun hne => absurd hk hne⟩
  · rw [hwrite, acceptedWrite_eq]
    exact ⟨rfl, fun _ => ⟨rfl, rfl, rfl⟩⟩

end Sys2Proof.Machine
end

section
/-! PROOFS. The statements about the port and the interrupt transactions (41_bus_io.md): the control ports in
the target-module form, the config byte, the ports of the IoDevices, the mapped-module ports, INTA and RETI. -/

namespace Sys2Proof.Machine

/-! The control ports in the target-module form (R28, R96, R142 to R145). -/

/-- R96: the port of register `r` of module `m`. -/
def ctrlPort (m : ModuleIx) (r : RegIx) : Port := BitVec.ofNat 16 (m.val * 4096 + r.val * 256 + 255)

theorem ctrlReg_ctrlPort (m : ModuleIx) (r : RegIx) : ctrlReg (ctrlPort m r) = r := ctrlReg_ofNat m r

theorem ixOfBits_ctrlPort (m : ModuleIx) (r : RegIx) :
    ixOfBits ((ctrlPort m r).extractLsb' 12 2) = m := by
  revert m r; decide

theorem ctrlTarget_ctrlPort {q : Params} (h : q.ctrlPortForm = .targetModule) (i m : ModuleIx)
    (r : RegIx) : ctrlTarget q i (ctrlPort m r) = m := by
  rw [ctrlTarget, h]
  exact ixOfBits_ctrlPort m r

theorem iordCtrl_ctrlPort {s : State} (h : s.params.ctrlPortForm = .targetModule) (i m : ModuleIx)
    (r : RegIx) : iordCtrl i (ctrlPort m r) s = s.emit (.returned i ((s.mod m).r.get r)) := by
  rw [iordCtrl, ctrlTarget_ctrlPort h, ctrlReg_ctrlPort]

theorem iowrCtrl_ctrlPort {s : State} (h : s.params.ctrlPortForm = .targetModule) (i m : ModuleIx)
    (r : RegIx) (v : Byte) : iowrCtrl i (ctrlPort m r) v s =
      if ctrlWriteAccepted s.cfg i m then ctrlAccept m r v s else s := by
  rw [iowrCtrl, ctrlTarget_ctrlPort h, ctrlReg_ctrlPort]

theorem exec_iowrCtrl_of_accepted {s : State} (h : s.params.ctrlPortForm = .targetModule)
    {i m : ModuleIx} (haccepted : s.cfg.lock = false ∧ i ≤ m) (r : RegIx) (v : Byte) :
    exec (.iowrCtrl i (ctrlPort m r) v) s = .next (ctrlAccept m r v s) :=
  congrArg _ ((iowrCtrl_ctrlPort h i m r v).trans (if_pos ((ctrlWriteAccepted_iff _ _ _).mpr haccepted)))

theorem exec_iowrCtrl_of_rejected {s : State} (h : s.params.ctrlPortForm = .targetModule)
    {i m : ModuleIx} (hrejected : ¬(s.cfg.lock = false ∧ i ≤ m)) (r : RegIx) (v : Byte) :
    exec (.iowrCtrl i (ctrlPort m r) v) s = .next s :=
  congrArg _ ((iowrCtrl_ctrlPort h i m r v).trans
    (if_neg (mt (ctrlWriteAccepted_iff _ _ _).mp hrejected)))

/-- Settles O20: bits 13:12 and 9:8 of the port select the module and the register that are read. -/
theorem controlReadReturnsRegister : Obligations.ControlReadReturnsRegister := by
  intro s i m r hform
  exact congrArg Host.Outcome.next (iordCtrl_ctrlPort hform i m r)

/-- Settles O22: the accepted write replaces the target module alone, and `acceptedWrite_eq` gives each of its
fields, here with the default R0_LAYOUT put in. -/
theorem acceptedControlWrite : Obligations.AcceptedControlWrite := by
  intro s i m r v hform hlayout hlock hle
  refine ⟨_, exec_iowrCtrl_of_accepted hform ⟨hlock, hle⟩ r v, rfl,
    fun k hk => ctrlAccept_mod_ne hk r v s, ?_⟩
  rw [ctrlAccept_mod_same, acceptedWrite_eq, hlayout, Bool.or_assoc,
    Bool.and_comm (s.params.waitRelease == .resetOnly)]
  rfl

/-- Settles O23: the write is accepted or rejected, and each condition fits one of the two. -/
theorem controlWriteRights : Obligations.ControlWriteRights := by
  intro s i m r v hform
  by_cases haccepted : s.cfg.lock = false ∧ i ≤ m
  · refine ⟨_, exec_iowrCtrl_of_accepted hform haccepted r v, fun _ _ => ?_, fun hbarred => ?_⟩
    · rw [ctrlAccept_mod_same, acceptedWrite_eq, Four.get_set_same]
    · obtain ⟨hlock, hle⟩ := haccepted
      rcases hbarred with hlocked | hlt
      · simp [hlock] at hlocked
      · exact absurd hle (not_le.mpr hlt)
  · exact ⟨_, exec_iowrCtrl_of_rejected hform haccepted r v,
      fun hlock hle => absurd ⟨hlock, hle⟩ haccepted, fun _ => rfl⟩

/-! The config byte (R104, R148, R149). -/

theorem exec_iowrCfg_of_zero (p : Port) (v : Byte) (s : State) :
    exec (.iowrCfg 0 p v) s = .next { s with cfg := cfgOfByte s.params v } := rfl

theorem exec_iowrCfg_of_ne {i : ModuleIx} (h : i ≠ 0) (p : Port) (v : Byte) (s : State) :
    exec (.iowrCfg i p v) s = .next s :=
  congrArg _ (if_neg h)

/-- R104: the configuration a byte gives, under the default CFG_LAYOUT. -/
theorem cfgOfByte_of_default {q : Params} (h : q.cfgLayout = cfgLayoutDefault) (v : Byte) :
    (cfgOfByte q v).mapped.val = v.toNat % 4 ∧ (cfgOfByte q v).ioblk = v.getLsbD 2 ∧
      (cfgOfByte q v).slvwait = v.getLsbD 3 ∧ (cfgOfByte q v).lock = v.getLsbD 7 := by
  rw [cfgOfByte, h]
  refine ⟨?_, rfl, rfl, rfl⟩
  simp [ixOfBits, cfgLayoutDefault]

/-- R104: the config byte in numbers, under the default CFG_LAYOUT: four fields at disjoint places. -/
theorem cfgByte_toNat {q : Params} (h : q.cfgLayout = cfgLayoutDefault) (c : BoardConfig) :
    (cfgByte q c).toNat =
      c.mapped.val + c.ioblk.toNat * 4 + c.slvwait.toNat * 8 + c.lock.toNat * 128 := by
  obtain ⟨mapped, ioblk, slvwait, lock⟩ := c
  rw [cfgByte, h]
  revert mapped ioblk slvwait lock
  decide

/-- Settles O26: the write stores the fields of the byte where module 0 issues it, and nothing elsewhere. -/
theorem configWrite : Obligations.ConfigWrite := by
  intro s i p v
  by_cases hi : i = 0
  · subst hi
    exact ⟨_, exec_iowrCfg_of_zero p v s, rfl, fun h => absurd rfl h,
      fun _ hlayout => cfgOfByte_of_default hlayout v⟩
  · exact ⟨_, exec_iowrCfg_of_ne hi p v s, rfl, fun _ => rfl, fun h => absurd h hi⟩

/-- Settles O27: the byte is `cfgByte`. -/
theorem configRead : Obligations.ConfigRead := by
  intro s i p
  exact ⟨cfgByte s.params s.cfg, rfl, fun hlayout => cfgByte_toNat hlayout s.cfg⟩

/-! The ports of the IoDevices (R153, R154, R157, R158). -/

theorem ownsPort_iff (d : Device) (p : Port) :
    (d.started && d.claims.any fun c => portHits c p) = true ↔
      d.started = true ∧ ∃ c ∈ d.claims, p &&& c.mask = c.value := by
  simp [portHits]

/-- R158: a port has no owner where no started device claims it. -/
theorem portOwner_eq_none {q : Params} {p : Port}
    (h : ∀ d ∈ q.devices, d.started = true → ∀ c ∈ d.claims, p &&& c.mask ≠ c.value) :
    portOwner q p = none := by
  rw [portOwner, List.findIdx?_eq_none_iff]
  intro d hd
  refine Bool.eq_false_iff.mpr fun howns => ?_
  obtain ⟨hstarted, c, hc, hhit⟩ := (ownsPort_iff d p).mp howns
  exact h d hd hstarted c hc hhit

/-- R157: where a started device claims a port, its owner is such a device. -/
theorem exists_portOwner {q : Params} {p : Port}
    (h : ∃ d ∈ q.devices, d.started = true ∧ ∃ c ∈ d.claims, p &&& c.mask = c.value) :
    ∃ n d, portOwner q p = some n ∧ q.devices[n]? = some d ∧ d.started = true ∧
      ∃ c ∈ d.claims, p &&& c.mask = c.value := by
  obtain ⟨d, hd, howns⟩ := h
  have hsome : (portOwner q p).isSome = true := by
    rw [portOwner, List.findIdx?_isSome, List.any_eq_true]
    exact ⟨d, hd, (ownsPort_iff d p).mpr howns⟩
  obtain ⟨n, hn⟩ := Option.isSome_iff_exists.mp hsome
  obtain ⟨hlt, hfound, -⟩ := List.findIdx?_eq_some_iff_getElem.mp hn
  exact ⟨n, _, hn, List.getElem?_eq_getElem hlt, (ownsPort_iff _ p).mp hfound⟩

theorem iordDev_of_unowned {p : Port} {s : State} (h : portOwner s.params p = none) (i : ModuleIx) :
    iordDev i p s = s.emit (.returned i 0xFF) := by
  rw [iordDev, h]
  rfl

theorem iordDev_of_owned {p : Port} {s : State} {n : Nat} (h : portOwner s.params p = some n)
    (i : ModuleIx) : iordDev i p s = { s with
      draws := s.draws + 1
      out := s.out ++ [.device n (.readIo i p), .returned i (Config.deviceByte s.draws)] } := by
  rw [iordDev, h]
  simp [drawDeviceByte, callDevice, State.emit]

theorem iowrDev_of_unowned {p : Port} {s : State} (h : portOwner s.params p = none) (i : ModuleIx)
    (v : Byte) : iowrDev i p v s = s := by
  rw [iowrDev, h]

theorem iowrDev_of_owned {p : Port} {s : State} {n : Nat} (h : portOwner s.params p = some n)
    (i : ModuleIx) (v : Byte) : iowrDev i p v s = s.emit (.device n (.writeIo i p v)) := by
  rw [iowrDev, h]
  rfl

/-- Settles O29: the port has no owner, or a started device that claims it; the byte is then the next draw. -/
theorem deviceRead : Obligations.DeviceRead := by
  intro s i p
  constructor
  · intro hunclaimed
    exact congrArg Host.Outcome.next (iordDev_of_unowned (portOwner_eq_none hunclaimed) i)
  · intro hclaimed
    obtain ⟨n, d, howner, hd, hstarted, hclaims⟩ := exists_portOwner hclaimed
    exact ⟨n, d, _, hd, hstarted, hclaims, congrArg Host.Outcome.next (iordDev_of_owned howner i)⟩

/-- Settles O30: as for the read, with a call that answers nothing. -/
theorem deviceWrite : Obligations.DeviceWrite := by
  intro s i p v
  constructor
  · intro hunclaimed
    exact congrArg Host.Outcome.next (iowrDev_of_unowned (portOwner_eq_none hunclaimed) i v)
  · intro hclaimed
    obtain ⟨n, d, howner, hd, hstarted, hclaims⟩ := exists_portOwner hclaimed
    exact ⟨n, d, hd, hstarted, hclaims, congrArg Host.Outcome.next (iowrDev_of_owned howner i v)⟩

/-! The mapped-module ports (R107, R151, R152). -/

theorem mappedPa_toNat_eq_mappedNumber (m : ModuleState) (p : Port) :
    (mappedPa m p).toNat = mappedNumber m p := by
  rw [mappedPa_toNat, bankOfs, mappedNumber, BitVec.extractLsb'_toNat]
  rfl

theorem exec_iordMapped (i : ModuleIx) (p : Port) (s : State) : exec (.iordMapped i p) s =
    .next ((s.setMod i { s.mod i with latchInt := true }).emit
      (.returned i (s.ram.read (mappedNumber (s.mod s.cfg.mapped) p)))) := by
  rw [← mappedPa_toNat_eq_mappedNumber]
  rfl

theorem exec_iowrMapped (i : ModuleIx) (p : Port) (v : Byte) (s : State) :
    exec (.iowrMapped i p v) s =
      .next ((s.ramWrite (mappedPa (s.mod s.cfg.mapped) p) v).setMod i
        { s.mod i with latchNmi := true }) := rfl

/-- Settles O31: the byte at the mapped offset, and the one latch of the initiator. -/
theorem mappedRead : Obligations.MappedRead := by
  intro s i p
  refine ⟨_, exec_iordMapped i p s, rfl, ?_, fun k hk => ?_⟩
  · rw [State.emit_mod, State.setMod_mod_same]
  · rw [State.emit_mod, State.setMod_mod_ne _ _ hk]

/-- Settles O32: the one store at the mapped offset, which RAM in canonical form reads back, and the one latch
of the initiator. -/
theorem mappedWrite : Obligations.MappedWrite := by
  intro s i p v hwf
  refine ⟨_, exec_iowrMapped i p v s, rfl, ?_, fun k hk => ?_, mappedPa_toNat_eq_mappedNumber _ p,
    fun x => ?_⟩
  · rw [State.setMod_mod_same]
  · rw [State.setMod_mod_ne _ _ hk, State.ramWrite_mod]
  · rw [State.setMod_ramRead, State.ramRead_ramWrite hwf]

/-! The interrupt transactions (R155, R156). -/

/-- Settles O34: INTA gives out its byte, and RETI restores nothing. -/
theorem interruptTransactions : Obligations.InterruptTransactions := by
  intro s i
  exact ⟨rfl, rfl⟩

end Sys2Proof.Machine
end

section
/-! PROOFS. The statements about the scheduler (42_scheduler.md): the slot of a module, with and without
RESET; the inputs presented; slots whose step issues no call; and the tick and the host commands. -/

namespace Sys2Proof.Machine

/-! The slot of a module (R176 to R182). -/

/-- R177, R179: the module as its slot presents inputs to it, after its reset where RESET is 1. -/
def openedModule (i : ModuleIx) (r : Bool) (m : ModuleState) : ModuleState :=
  if resetSignal m r then moduleAtReset i else m

theorem openSlot_eq (i : ModuleIx) (r : Bool) (s : State) :
    openSlot i r s = s.setMod i (openedModule i r (s.mod i)) := by
  unfold openSlot openedModule
  split
  · rfl
  · exact (State.setMod_self s i).symm

theorem openedModule_of_reset (i : ModuleIx) {r : Bool} {m : ModuleState}
    (h : resetSignal m r = true) : openedModule i r m = moduleAtReset i := if_pos h

theorem openedModule_of_noReset (i : ModuleIx) {m : ModuleState} (h : m.latchReset = false) :
    openedModule i false m = m := by
  simp [openedModule, resetSignal, h]

/-- R231: of a module that its slot resets, both latches, the wait and HALT read as 0. -/
theorem openedModule_flags (i : ModuleIx) (r : Bool) (m : ModuleState) :
    (openedModule i r m).latchNmi = (!resetSignal m r && m.latchNmi) ∧
    (openedModule i r m).latchInt = (!resetSignal m r && m.latchInt) ∧
    (openedModule i r m).waitAsserted = (!resetSignal m r && m.waitAsserted) ∧
    (openedModule i r m).haltOut = (!resetSignal m r && m.haltOut) := by
  cases h : resetSignal m r <;> simp [openedModule, h, moduleAtReset]

/-- R205: the inputs presented to module `i` in its slot. -/
def slotSignals (i : ModuleIx) (r n : Bool) (s : State) : SignalWord :=
  signalsOf s.cfg i (openedModule i r (s.mod i)) (resetSignal (s.mod i) r) n

theorem slotSignals_of_noReset {i : ModuleIx} {s : State} (n : Bool)
    (h : (s.mod i).latchReset = false) :
    slotSignals i false n s = signalsOf s.cfg i (s.mod i) false n := by
  simp [slotSignals, openedModule_of_noReset i h, resetSignal, h]

/-- R172 to R174: the step performed in module `i`'s slot. -/
def slotAnswer (i : ModuleIx) (r n : Bool) (s : State) : CpuStep :=
  cpuAnswer s.params i (s.cpu.get i) (slotSignals i r n s)

/-- The state in which the step of module `i`'s slot starts. -/
def slotStart (i : ModuleIx) (r n : Bool) (s : State) : State :=
  stepStart i (slotSignals i r n s) (openSlot i r s)

theorem slotStart_eq (i : ModuleIx) (r n : Bool) (s : State) : slotStart i r n s = { s with
    mods := s.mods.set i
      { openedModule i r (s.mod i) with latchNmi := false, latchInt := false }
    out := s.out ++ .presented i (slotSignals i r n s) ::
      (startedDevices s.params).map fun d => .device d (.preStep i) } := by
  simp [slotStart, stepStart_eq, openSlot_eq, State.setMod, State.mod, Four.set_set]

section
variable {i : ModuleIx} {r n : Bool} {s u : State} {acc : TickSums}

/-- What a slot answers rests on the parameters, the configuration and its own module alone. -/
theorem slotAnswer_congr (hparams : u.params = s.params) (hcfg : u.cfg = s.cfg)
    (hmod : u.mod i = s.mod i) (hcpu : u.cpu.get i = s.cpu.get i) :
    slotAnswer i r n u = slotAnswer i r n s := by
  simp only [slotAnswer, slotSignals, hparams, hcfg, hmod, hcpu]

/-- A slot whose step completes is closed with the step's end. -/
theorem runSlot_of_stepEnd {e : StepEnd}
    (h : runCpuStep i (slotAnswer i r n s) none (slotStart i r n s) = (some e, u)) :
    runSlot i r n s acc = closeSlot i e u acc := by
  simp only [slotAnswer, slotSignals, slotStart, stepStart, openSlot_eq] at h
  simp [runSlot, openSlot_eq, h]

/-- R201: a slot whose step a fault stops ends where the step stands. -/
theorem runSlot_of_stepStop
    (h : runCpuStep i (slotAnswer i r n s) none (slotStart i r n s) = (none, u)) :
    runSlot i r n s acc = (u, acc) := by
  simp only [slotAnswer, slotSignals, slotStart, stepStart, openSlot_eq] at h
  simp [runSlot, openSlot_eq, h]

end

theorem issueCall_marksKept (i : ModuleIx) (c : BusCall) (s : State) :
    MarksKept s (issueCall i c s) := by
  obtain ⟨ins, -, -, h⟩ := exec_encodeCall s i c
  exact exec_marksKept ins h

/-- R201: a step that stops leaves a fault recorded, wherever it started. -/
theorem fault_of_runCpuStep_stopped {i : ModuleIx} {step : CpuStep} {last : Option Byte} {s : State}
    (h : (runCpuStep i step last s).1 = none) :
    (runCpuStep i step last s).2.host.fault ≠ none := by
  by_cases hs : s.host.fault = none
  · exact (runCpuStep_stops_iff i step last s hs).mp h
  · exact runCpuStep_keeps (P := fun u => u.host.fault ≠ none)
      (fun c u hu => (issueCall_marksKept i c u).2 hu) step last hs

/-- A slot that ends without a fault has completed its step. -/
theorem stepEnd_of_runSlot_noFault {i : ModuleIx} {r n : Bool} {s : State} {acc : TickSums}
    (h : (runSlot i r n s acc).1.host.fault = none) :
    ∃ e u, runCpuStep i (slotAnswer i r n s) none (slotStart i r n s) = (some e, u) ∧
      runSlot i r n s acc = closeSlot i e u acc := by
  cases hrun : runCpuStep i (slotAnswer i r n s) none (slotStart i r n s) with
  | mk ended u =>
    cases ended with
    | none =>
      have hstopped := fault_of_runCpuStep_stopped (congrArg Prod.fst hrun)
      rw [runSlot_of_stepStop hrun] at h
      rw [hrun] at hstopped
      exact absurd h hstopped
    | some e => exact ⟨e, u, rfl, runSlot_of_stepEnd hrun⟩

theorem closeSlot_haltEntry (i : ModuleIx) (e : StepEnd) (u : State) (acc : TickSums) :
    (closeSlot i e u acc).2.haltEntry =
      acc.haltEntry.set i (haltEdge (u.mod i).haltOut e.halt) := by
  simp [closeSlot, callAllDevices_eq, State.mod]

/-! The inputs presented (R189), and what is given out after them. -/

/-- From `s` to `t` more was given out, in which inputs are presented to the modules `l`, in this order. -/
def Presents (l : List ModuleIx) (s t : State) : Prop :=
  ∃ given, t.out = s.out ++ given ∧ given.filterMap presentedTo = l

theorem Presents.trans {l l' : List ModuleIx} {s t u : State} :
    Presents l s t → Presents l' t u → Presents (l ++ l') s u
  | ⟨given, hout, hl⟩, ⟨given', hout', hl'⟩ =>
    ⟨given ++ given', by rw [hout', hout, List.append_assoc], by rw [List.filterMap_append, hl, hl']⟩

theorem Presents.refl (s : State) : Presents [] s s := ⟨[], by simp, rfl⟩

theorem Presents.drop {l : List ModuleIx} {s t : State} (h : Presents l s t) :
    (t.out.drop s.out.length).filterMap presentedTo = l := by
  obtain ⟨given, hout, hl⟩ := h
  rw [hout, List.drop_left, hl]

theorem Presents.out_prefix {l : List ModuleIx} {s t : State} : Presents l s t → s.out <+: t.out
  | ⟨given, hout, _⟩ => ⟨given, hout.symm⟩

theorem filterMap_presentedTo_devices (l : List Nat) (c : DeviceCall) :
    (l.map fun d => Event.device d c).filterMap presentedTo = [] := by
  simp [List.filterMap_eq_nil_iff, presentedTo]

theorem OneReply.presents_nothing {i : ModuleIx} {given : List Event} (h : OneReply i given) :
    given.filterMap presentedTo = [] := by
  rcases h with rfl | ⟨v, rfl⟩ | ⟨d, c, rfl⟩ | ⟨d, c, v, rfl⟩ <;> rfl

theorem callAllDevices_presents (c : DeviceCall) (s : State) : Presents [] s (callAllDevices c s) :=
  ⟨_, by rw [callAllDevices_eq], filterMap_presentedTo_devices _ c⟩

theorem runCpuStep_presents (i : ModuleIx) (step : CpuStep) (last : Option Byte) (s : State) :
    Presents [] s (runCpuStep i step last s).2 := by
  refine runCpuStep_keeps (P := Presents [] s) (fun c u h => ?_) step last (.refl s)
  obtain ⟨given, hout, hone⟩ := issueCall_out i c u
  exact h.trans ⟨given, hout, hone.presents_nothing⟩

theorem closeSlot_presents (i : ModuleIx) (e : StepEnd) (u : State) (acc : TickSums) :
    Presents [] u (closeSlot i e u acc).1 :=
  ⟨_, by rw [closeSlot_state], filterMap_presentedTo_devices _ (.postStep i e.cycles)⟩

/-- R176: a slot presents its inputs before its step and none after. -/
theorem runSlot_presents_after_start (i : ModuleIx) (r n : Bool) (s : State) (acc : TickSums) :
    Presents [] (slotStart i r n s) (runSlot i r n s acc).1 := by
  have hstep := runCpuStep_presents i (slotAnswer i r n s) none (slotStart i r n s)
  cases hrun : runCpuStep i (slotAnswer i r n s) none (slotStart i r n s) with
  | mk ended u =>
    rw [hrun] at hstep
    cases ended with
    | none => rwa [runSlot_of_stepStop hrun]
    | some e =>
      rw [runSlot_of_stepEnd hrun]
      exact hstep.trans (closeSlot_presents i e u acc)

theorem slotStart_presents (i : ModuleIx) (r n : Bool) (s : State) :
    Presents [i] s (slotStart i r n s) :=
  ⟨_, by rw [slotStart_eq], by
    simp only [List.filterMap_cons, presentedTo, filterMap_presentedTo_devices]⟩

theorem runSlot_presents (i : ModuleIx) (r n : Bool) (s : State) (acc : TickSums) :
    Presents [i] s (runSlot i r n s acc).1 :=
  (slotStart_presents i r n s).trans (runSlot_presents_after_start i r n s acc)

/-! Slots whose step issues no call. -/

/-- A step that issues no call ends where it starts. -/
theorem runCpuStep_of_noCall {step : CpuStep} (h : issuesNoCall step = true) (i : ModuleIx)
    (last : Option Byte) (s : State) : ∃ e, runCpuStep i step last s = (some e, s) := by
  induction step generalizing last with
  | finish regs halt cycles => exact ⟨_, rfl⟩
  | call c next ih => cases h
  | branch v same other ihs iho =>
    obtain ⟨hsame, hother⟩ := Bool.and_eq_true_iff.mp h
    simp only [runCpuStep]
    split
    · exact ihs hsame last
    · exact iho hother last

/-- The module after a slot in which its CpuCore issued no call and ended its step with HALT output `halt`. -/
def closedModule (i : ModuleIx) (r halt : Bool) (m : ModuleState) : ModuleState :=
  { openedModule i r m with latchNmi := false, latchInt := false, haltOut := halt }

/-- R231: after a RESET step the module is in its reset state. -/
theorem closedModule_of_reset (i : ModuleIx) {r : Bool} {m : ModuleState}
    (h : resetSignal m r = true) : closedModule i r false m = moduleAtReset i := by
  rw [closedModule, openedModule_of_reset i h]
  rfl

theorem closedModule_of_noReset (i : ModuleIx) {halt : Bool} {m : ModuleState}
    (h : m.latchReset = false) : closedModule i false halt m =
      { m with latchNmi := false, latchInt := false, haltOut := halt } := by
  rw [closedModule, openedModule_of_noReset i h]

section
variable {i : ModuleIx} {r n : Bool} {s : State} {acc : TickSums}

/-- The whole effect of a slot whose step issues no call. -/
theorem runSlot_of_noCall {e : StepEnd}
    (h : runCpuStep i (slotAnswer i r n s) none (slotStart i r n s) =
      (some e, slotStart i r n s)) :
    runSlot i r n s acc = (
      { s with
        mods := s.mods.set i (closedModule i r e.halt (s.mod i))
        cpu := s.cpu.set i e.regs
        out := (slotStart i r n s).out ++
          (startedDevices s.params).map fun d => .device d (.postStep i e.cycles) },
      { haltEntry := acc.haltEntry.set i (haltEdge (openedModule i r (s.mod i)).haltOut e.halt)
        sum := acc.sum + e.cycles.setWidth 64
        c0 := if i = 0 then e.cycles.setWidth 64 else acc.c0 }) := by
  rw [runSlot_of_stepEnd h]
  refine Prod.ext ?_ ?_
  · simp [closeSlot_state, slotStart_eq, State.mod, Four.set_set, closedModule]
  · simp [closeSlot, callAllDevices_eq, slotStart_eq, State.mod]

theorem runCpuStep_of_slotAnswer_finish {e : StepEnd}
    (h : slotAnswer i r n s = .finish e.regs e.halt e.cycles) :
    runCpuStep i (slotAnswer i r n s) none (slotStart i r n s) = (some e, slotStart i r n s) := by
  rw [h]
  rfl

end

/-! The CpuCore contract under RESET and WAIT (R172, R173). -/

theorem cpuAnswer_of_reset {sig : SignalWord} (h : sig.reset = true) (q : Params) (i : ModuleIx)
    (regs : CpuRegs) : cpuAnswer q i regs sig =
      .finish (regsWithoutCalls (coreStep q i regs sig)) false q.resetStepCycles := by
  simp [cpuAnswer, effectiveInput, h]

theorem cpuAnswer_of_wait {q : Params} {i : ModuleIx} {regs : CpuRegs} {sig : SignalWord}
    (hreset : sig.reset = false) (hnmi : sig.nmi = false)
    (hint : (sig.int && coreAcceptsInt q i regs) = false) (hwait : sig.wait = true) :
    cpuAnswer q i regs sig = .finish regs sig.halt q.waitStepCycles := by
  simp [cpuAnswer, effectiveInput, hreset, hnmi, hint, hwait]

/-- R171, R180: no INT reaches the CPU as an effective input, because none is presented or none accepted. -/
theorem noEffectiveInt {c : BoardConfig} {i : ModuleIx} {m : ModuleState} {n accepts : Bool}
    (h : (m.latchInt = false ∧ (n = false ∨ (i ≠ 0 ∧ c.ioblk = true))) ∨ accepts = false) :
    (intSignal c i m n && accepts) = false := by
  rcases h with ⟨hlatch, hn | ⟨hi, hioblk⟩⟩ | haccepts
  · simp [intSignal, hlatch, hn]
  · simp [intSignal, hlatch, hi, hioblk]
  · simp [haccepts]

theorem waitSignal_eq_true {c : BoardConfig} {i : ModuleIx} {m : ModuleState}
    (h : m.waitAsserted = true ∨ (i ≠ 0 ∧ c.slvwait = true)) : waitSignal c i m = true := by
  simpa [waitSignal] using h

/-! The statements about one slot. -/

/-- Settles O46: the inputs are those of the opened module and are given out first; a step without a call
leaves the latches as the slot consumed them. -/
theorem slotPresentsTheRoutedSignals : Obligations.SlotPresentsTheRoutedSignals := by
  intro s i r n acc
  obtain ⟨given, hout, -⟩ := runSlot_presents_after_start i r n s acc
  obtain ⟨hnmi, hint, hwait, -⟩ := openedModule_flags i r (s.mod i)
  refine ⟨slotSignals i r n s, (startedDevices s.params).map (.device · (.preStep i)) ++ given,
    by simp [hout, slotStart_eq], rfl, hnmi, ?_, ?_, fun hnoCall => ?_⟩
  · change intSignal s.cfg i _ n = _
    rw [intSignal, hint]
    split <;> rfl
  · change waitSignal s.cfg i _ = _
    rw [waitSignal, hwait]
    rfl
  · obtain ⟨e, hrun⟩ := runCpuStep_of_noCall hnoCall i none (slotStart i r n s)
    rw [runSlot_of_noCall hrun]
    exact ⟨by simp [State.mod, closedModule], by simp [State.mod, closedModule],
      fun k hk => Four.get_set_ne _ _ hk⟩

/-- How a WAIT step of module `i` ends (R173). -/
def waitEnd (i : ModuleIx) (s : State) : StepEnd where
  regs := s.cpu.get i
  halt := (s.mod i).haltOut
  cycles := s.params.waitStepCycles

/-- Settles O49: the contract's WAIT step ends at once, with the register state and the HALT it had. -/
theorem waitSlot : Obligations.WaitSlot := by
  intro s i n acc _ hreset hnmi hint hwait
  have hanswer : slotAnswer i false n s =
      .finish (waitEnd i s).regs (waitEnd i s).halt (waitEnd i s).cycles := by
    rw [slotAnswer, slotSignals_of_noReset n hreset]
    exact cpuAnswer_of_wait rfl hnmi (noEffectiveInt hint) (waitSignal_eq_true hwait)
  have hslot := runSlot_of_noCall (acc := acc) (runCpuStep_of_slotAnswer_finish hanswer)
  simp only [openedModule_of_noReset i hreset, waitEnd, Four.set_get_self] at hslot
  refine ⟨_, _, hslot, rfl, ?_, fun k hk => Four.get_set_ne _ _ hk, rfl, ?_⟩
  · rw [State.mod, Four.get_set_same, closedModule_of_noReset i hreset]
    simp [hnmi]
  · simp [haltEdge]

/-- R36: no bus call changes a HALT output. -/
theorem issueCall_haltOut (i : ModuleIx) (c : BusCall) (s : State) (k : ModuleIx) :
    ((issueCall i c s).mod k).haltOut = (s.mod k).haltOut := by
  obtain ⟨ins, -, hi, h⟩ := exec_encodeCall s i c
  exact (pagingAndFetchStateAreOwn s _ ins i k hi h).1

/-- The calls of a slot's step leave HALT as the slot opened with it. -/
theorem haltOut_of_stepEnd {i : ModuleIx} {r n : Bool} {s u : State} {e : Option StepEnd}
    (h : runCpuStep i (slotAnswer i r n s) none (slotStart i r n s) = (e, u)) :
    (u.mod i).haltOut = (openedModule i r (s.mod i)).haltOut := by
  have hkeeps := runCpuStep_keeps
    (P := fun v => (v.mod i).haltOut = (openedModule i r (s.mod i)).haltOut)
    (fun c v hv => (issueCall_haltOut i c v i).trans hv) (slotAnswer i r n s) none
    (s := slotStart i r n s) (by simp [slotStart_eq, State.mod])
  rwa [h] at hkeeps

/-- Settles O50: the closing of the slot reports the edge from the HALT with which the slot opened, which the
calls of the step did not change. -/
theorem slotReportsTheHaltEdge : Obligations.SlotReportsTheHaltEdge := by
  intro s t i r n acc sums hslot hfault
  have hother (k : ModuleIx) (hk : k ≠ i) :=
    runSlot_keeps_other (P := fun m => m.haltOut = (s.mod k).haltOut) hk
      (fun c u h => (issueCall_haltOut i c u k).trans h) r n acc rfl
  obtain ⟨e, u, hrun, hclosed⟩ := stepEnd_of_runSlot_noFault (i := i) (r := r) (n := n) (s := s)
    (acc := acc) (by rw [hslot]; exact hfault)
  have hentry := closeSlot_haltEntry i e u acc
  have hhalt := congrArg ModuleState.haltOut (closeSlot_mod_same i e u acc)
  obtain ⟨-, -, -, hopened⟩ := openedModule_flags i r (s.mod i)
  rw [hslot] at hother hclosed
  rw [← hclosed] at hentry hhalt
  rw [haltOut_of_stepEnd hrun, hopened] at hentry
  refine ⟨?_, fun k hk => ⟨?_, hother k hk⟩⟩
  · rw [hentry, Four.get_set_same, hhalt]
    rfl
  · rw [hentry, Four.get_set_ne _ _ hk]

/-- R173, R174: without RESET, NMI and an effective INT, the step of a halted CPU ends with HALT 1. -/
theorem halt_of_cpuAnswer_held {q : Params} {i j : ModuleIx} {regs : CpuRegs} {sig : SignalWord}
    {last : Option Byte} {s u : State} {e : StepEnd} (hreset : sig.reset = false)
    (hnmi : sig.nmi = false) (hint : (sig.int && coreAcceptsInt q i regs) = false)
    (hhalt : sig.halt = true)
    (h : runCpuStep j (cpuAnswer q i regs sig) last s = (some e, u)) : e.halt = true := by
  cases hwait : sig.wait with
  | true =>
    rw [cpuAnswer_of_wait hreset hnmi hint hwait] at h
    cases h
    exact hhalt
  | false =>
    rw [cpuAnswer_own (taken := false) hreset (by rw [hnmi, hint]; rfl) (.inr hwait),
      runCpuStep_keepHalt] at h
    obtain ⟨own, -, rfl⟩ := Option.map_eq_some_iff.mp (congrArg Prod.fst h)
    simp [StepEnd.keepHalt, hhalt]

/-- Settles O51: the step of the slot ends with HALT 1, and from 1 to 1 there is no edge. -/
theorem haltedModuleStaysHalted : Obligations.HaltedModuleStaysHalted := by
  intro s t i n acc sums hslot hfault hhalted hreset hnmi hint
  obtain ⟨hedge, -⟩ := slotReportsTheHaltEdge s t i false n acc sums hslot hfault
  obtain ⟨e, u, hrun, hclosed⟩ := stepEnd_of_runSlot_noFault (i := i) (r := false) (n := n) (s := s)
    (acc := acc) (by rw [hslot]; exact hfault)
  have hhalt := congrArg ModuleState.haltOut (closeSlot_mod_same i e u acc)
  rw [← hclosed, hslot] at hhalt
  rw [slotAnswer, slotSignals_of_noReset n hreset] at hrun
  have hheld : (t.mod i).haltOut = true :=
    hhalt.trans (halt_of_cpuAnswer_held rfl hnmi (noEffectiveInt hint) hhalted hrun)
  exact ⟨hheld, by simp [hedge, hheld, hreset, hhalted]⟩

/-! The slots of a tick in turn (R176, R189). -/

section
variable {r n : Bool} {s : State} {acc : TickSums}

theorem runSlots_cons_of_noFault {i : ModuleIx} {rest : List ModuleIx}
    (h : (runSlot i r n s acc).1.host.fault = none) : runSlots r n (i :: rest) s acc =
      runSlots r n rest (runSlot i r n s acc).1 (runSlot i r n s acc).2 := by
  simp [runSlots, h]

theorem runSlots_cons_of_fault {i : ModuleIx} {rest : List ModuleIx}
    (h : (runSlot i r n s acc).1.host.fault ≠ none) :
    runSlots r n (i :: rest) s acc = runSlot i r n s acc := by
  simp [runSlots, Option.isSome_iff_ne_none, h]

/-- Where no fault stops the slots, none stops the first. -/
theorem noFault_of_runSlots_cons {i : ModuleIx} {rest : List ModuleIx}
    (h : (runSlots r n (i :: rest) s acc).1.host.fault = none) :
    (runSlot i r n s acc).1.host.fault = none := by
  by_contra hfault
  rw [runSlots_cons_of_fault hfault] at h
  exact hfault h

/-- R189, R201: the slots present inputs to the modules in the order listed, up to a fault. -/
theorem runSlots_presents (l : List ModuleIx) : ∃ l', l' <+: l ∧
    Presents l' s (runSlots r n l s acc).1 ∧
    ((runSlots r n l s acc).1.host.fault = none → l' = l) := by
  induction l generalizing s acc with
  | nil => exact ⟨[], List.prefix_rfl, .refl s, fun _ => rfl⟩
  | cons i rest ih =>
    have hslot := runSlot_presents i r n s acc
    by_cases hfault : (runSlot i r n s acc).1.host.fault = none
    · obtain ⟨l', hprefix, hrest, hall⟩ := ih (s := (runSlot i r n s acc).1)
        (acc := (runSlot i r n s acc).2)
      rw [runSlots_cons_of_noFault hfault]
      exact ⟨i :: l', List.cons_prefix_cons.mpr ⟨rfl, hprefix⟩, hslot.trans hrest,
        fun hnone => by rw [hall hnone]⟩
    · rw [runSlots_cons_of_fault hfault]
      exact ⟨[i], List.prefix_append [i] rest, hslot, fun hnone => absurd hnone hfault⟩

/-- The four slots that no fault stops, each from the state and the sums that the one before it leaves. -/
theorem exists_slots_of_noFault (h : (runSlots r n [0, 1, 2, 3] s acc).1.host.fault = none) :
    ∃ (s1 s2 s3 : State) (a1 a2 a3 : TickSums), runSlot 0 r n s acc = (s1, a1) ∧
      runSlot 1 r n s1 a1 = (s2, a2) ∧ runSlot 2 r n s2 a2 = (s3, a3) ∧
      runSlot 3 r n s3 a3 = runSlots r n [0, 1, 2, 3] s acc := by
  have h0 := noFault_of_runSlots_cons h
  rw [runSlots_cons_of_noFault h0] at h ⊢
  have h1 := noFault_of_runSlots_cons h
  rw [runSlots_cons_of_noFault h1] at h ⊢
  have h2 := noFault_of_runSlots_cons h
  rw [runSlots_cons_of_noFault h2] at h ⊢
  have h3 := noFault_of_runSlots_cons h
  rw [runSlots_cons_of_noFault h3]
  exact ⟨_, _, _, _, _, _, rfl, rfl, rfl, rfl⟩

end

/-! The frame of a slot, and the start and the end of a tick (R176, R178, R184, R190). -/

/-- What no slot changes: the timebase, ROM, the parameters and the offered words. -/
def SlotFrame (s t : State) : Prop :=
  t = { s with
    mods := t.mods, cfg := t.cfg, host := t.host, ram := t.ram
    cpu := t.cpu, draws := t.draws, out := t.out }

theorem SlotFrame.trans {s t u : State} (h : SlotFrame s t) (h' : SlotFrame t u) : SlotFrame s u := by
  unfold SlotFrame at *
  rw [h', h]

theorem BusFrame.slotFrame {s t : State} (h : BusFrame s t) : SlotFrame s t := by
  unfold BusFrame at h
  unfold SlotFrame
  rw [h]

theorem SlotFrame.tb_eq {s t : State} (h : SlotFrame s t) : t.tb = s.tb := by rw [h]
theorem SlotFrame.params_eq {s t : State} (h : SlotFrame s t) : t.params = s.params := by rw [h]

theorem callAllDevices_slotFrame (c : DeviceCall) (s : State) : SlotFrame s (callAllDevices c s) := by
  rw [callAllDevices_eq]
  rfl

theorem runSlots_slotFrame (r n : Bool) (l : List ModuleIx) (s : State) (acc : TickSums) :
    SlotFrame s (runSlots r n l s acc).1 :=
  runSlots_keeps (P := SlotFrame s)
    (fun i _ _ h => runSlot_keeps (P := SlotFrame s) (fun _ h => h.trans rfl) (fun _ h => h.trans rfl)
      (fun _ _ h => h.trans rfl) (fun _ _ h => h.trans rfl)
      (fun c u h => h.trans (callAllDevices_slotFrame c u))
      (fun c u h => h.trans (issueCall_busFrame i c u).slotFrame) (fun _ _ h => h.trans rfl) h)
    l rfl

theorem openTick_false (s : State) :
    openTick false s = { s with tb := { s.tb with intDue := false } } := rfl

/-- R178, R234: what a board reset does before the slots. -/
theorem openTick_true (s : State) : openTick true s = { s with
    cfg := { mapped := 0, ioblk := false, slvwait := false, lock := false }
    tb := { s.tb with intDue := false }
    out := s.out ++ (startedDevices s.params).map fun d => .device d .reset } := by
  simp [openTick, boardReset, callAllDevices_eq, configAtReset]

theorem openTick_tb (r : Bool) (s : State) : (openTick r s).tb = { s.tb with intDue := false } := by
  cases r with
  | false => rfl
  | true => rw [openTick_true]

/-- The start of a tick touches CFG, TB and what is given out. -/
theorem openTick_frame (r : Bool) (s : State) : openTick r s = { s with
    cfg := (openTick r s).cfg, tb := (openTick r s).tb, out := (openTick r s).out } := by
  cases r with
  | false => rfl
  | true => rw [openTick_true]

theorem openTick_presents (r : Bool) (s : State) : Presents [] s (openTick r s) := by
  cases r with
  | false => exact .refl s
  | true => exact ⟨_, by rw [openTick_true], filterMap_presentedTo_devices _ .reset⟩

/-- The result record of a tick, by the timebase at its end (R190). -/
def resultOf (tb : Timebase) (acc : TickSums) : TickResult :=
  { haltEntry := acc.haltEntry, cycles := acc.sum, intDue := tb.intDue }

theorem closeTick_eq (s : State) (acc : TickSums) : closeTick s acc = { s with
    tb := (closeTick s acc).tb
    out := s.out ++ [.tickResult (resultOf (closeTick s acc).tb acc)] } := rfl

@[simp] theorem closeTick_mod (s : State) (acc : TickSums) (k : ModuleIx) :
    (closeTick s acc).mod k = s.mod k := rfl
@[simp] theorem closeTick_cpu (s : State) (acc : TickSums) : (closeTick s acc).cpu = s.cpu := rfl

theorem closeTick_presents (s : State) (acc : TickSums) : Presents [] s (closeTick s acc) :=
  ⟨_, rfl, rfl⟩

theorem closeTick_cycleTotal (s : State) (acc : TickSums) :
    (closeTick s acc).tb.cycleTotal = s.tb.cycleTotal + acc.sum := by
  rcases advanceTimebase_cases s.params.cyclesPerInt acc.sum acc.c0 s.tb with ⟨-, h⟩ | ⟨-, h⟩ <;>
    simp [closeTick, h]

/-- R184: the cadence at the end of a tick, and the intDue that the tick had cleared. -/
theorem closeTick_cadence {s : State} (hdue : s.tb.intDue = false) (acc : TickSums) :
    if s.params.cyclesPerInt ≤ s.tb.cadence + acc.c0 then
      (closeTick s acc).tb.intDue = true ∧
        (closeTick s acc).tb.cadence = s.tb.cadence + acc.c0 - s.params.cyclesPerInt
    else (closeTick s acc).tb.intDue = false ∧
      (closeTick s acc).tb.cadence = s.tb.cadence + acc.c0 := by
  rcases advanceTimebase_cases s.params.cyclesPerInt acc.sum acc.c0 s.tb with ⟨hle, h⟩ | ⟨hlt, h⟩
  · rw [if_pos hle]
    simp [closeTick, h]
  · rw [if_neg hlt]
    simp [closeTick, h, hdue]

/-! The tick as a whole. -/

/-- What the slots of a tick lead to. -/
def tickSlots (r n : Bool) (s : State) : State × TickSums :=
  runSlots r n [0, 1, 2, 3] (openTick r s) noSums

theorem tickSlots_tb (r n : Bool) (s : State) :
    (tickSlots r n s).1.tb = { s.tb with intDue := false } :=
  (runSlots_slotFrame r n _ _ _).tb_eq.trans (openTick_tb r s)

theorem tickSlots_params (r n : Bool) (s : State) : (tickSlots r n s).1.params = s.params :=
  (runSlots_slotFrame r n _ _ _).params_eq.trans (openTick_sameFixed r s).2.2

theorem tickSlots_presents (r n : Bool) (s : State) : ∃ l, l <+: [0, 1, 2, 3] ∧
    Presents l s (tickSlots r n s).1 ∧
    ((tickSlots r n s).1.host.fault = none → l = [0, 1, 2, 3]) := by
  obtain ⟨l, hprefix, hpresents, hall⟩ := runSlots_presents (r := r) (n := n) (s := openTick r s)
    (acc := noSums) [0, 1, 2, 3]
  exact ⟨l, hprefix, (openTick_presents r s).trans hpresents, hall⟩

theorem tickSlots_out (r n : Bool) (s : State) : (openTick r s).out <+: (tickSlots r n s).1.out := by
  obtain ⟨l, -, hpresents, -⟩ := runSlots_presents (r := r) (n := n) (s := openTick r s)
    (acc := noSums) [0, 1, 2, 3]
  exact hpresents.out_prefix

theorem tick_of_noFault {r n : Bool} {s : State} (h : (tickSlots r n s).1.host.fault = none) :
    tick r n s = closeTick (tickSlots r n s).1 (tickSlots r n s).2 := by
  unfold tickSlots at h
  simp [tick, tickSlots, h]

theorem tick_of_fault {r n : Bool} {s : State} (h : (tickSlots r n s).1.host.fault ≠ none) :
    tick r n s = (tickSlots r n s).1 := by
  unfold tickSlots at h
  simp [tick, tickSlots, Option.isSome_iff_ne_none, h]

/-- The end of a tick leaves the host marks as its slots do. -/
theorem tick_host (r n : Bool) (s : State) : (tick r n s).host = (tickSlots r n s).1.host := by
  by_cases h : (tickSlots r n s).1.host.fault = none
  · rw [tick_of_noFault h, closeTick_eq]
  · rw [tick_of_fault h]

/-- R49, R67, log entries 2 and 3: a tick leaves ROM, the parameters and the offered words as they are. -/
theorem tick_frame (r n : Bool) (s : State) : tick r n s = { s with
    mods := (tick r n s).mods, cfg := (tick r n s).cfg, tb := (tick r n s).tb
    host := (tick r n s).host, ram := (tick r n s).ram, cpu := (tick r n s).cpu
    draws := (tick r n s).draws, out := (tick r n s).out } := by
  have hslots : SlotFrame (openTick r s) (tickSlots r n s).1 := runSlots_slotFrame r n _ _ _
  unfold SlotFrame at hslots
  rw [openTick_frame] at hslots
  by_cases h : (tickSlots r n s).1.host.fault = none
  · rw [tick_of_noFault h, closeTick_eq, hslots]
  · rw [tick_of_fault h, hslots]

theorem issueCall_cancelRequested (i : ModuleIx) (c : BusCall) (s : State) :
    (issueCall i c s).host.cancelRequested = s.host.cancelRequested := by
  obtain ⟨ins, -, hi, h⟩ := exec_encodeCall s i c
  cases exec_memoryEffect hi h with
  | unchanged _ host | stored _ _ _ host | overflowed _ _ _ _ _ host => rw [host]

/-- R47, R187: no tick changes the cancel mark. -/
theorem tick_cancelRequested (r n : Bool) (s : State) :
    (tick r n s).host.cancelRequested = s.host.cancelRequested :=
  tick_keeps_of_calls (P := fun u => u.host.cancelRequested = s.host.cancelRequested)
    (fun hhost _ h => by rw [hhost, h]) (fun i c u h => (issueCall_cancelRequested i c u).trans h)
    r n rfl

/-- R176: a TICK with neither mark set runs. -/
theorem exec_hostTick (r n : Bool) {s : State} (hfault : s.host.fault = none)
    (hcancel : s.host.cancelRequested = false) : exec (.hostTick r n) s = .next (tick r n s) := by
  simp [exec, execHostTick, hfault, hcancel]

/-- Settles O40: the two marks are tested before anything else, the fault first. -/
theorem tickRefusedAfterFaultOrCancel : Obligations.TickRefusedAfterFaultOrCancel := by
  intro s r n
  exact ⟨fun f hfault => by simp [exec, execHostTick, hfault],
    fun hfault hcancel => by simp [exec, execHostTick, hfault, hcancel]⟩

/-- Settles O52: the copy is `snapshotOf`, which takes the registers of each module in its place. -/
theorem snapshotIsACopy : Obligations.SnapshotIsACopy := by
  intro s
  exact ⟨snapshotOf s, rfl, rfl, rfl, rfl, fun k => ⟨Four.get_tabulate _ k, Four.get_tabulate _ k⟩⟩

/-- Settles O53: after CANCEL a tick is refused, under the fault's name where one is recorded. -/
theorem cancelStopsTicks : Obligations.CancelStopsTicks := by
  intro s
  refine ⟨_, rfl, rfl, fun r n => ?_, _, rfl⟩
  obtain ⟨hafterFault, hafterCancel⟩ := tickRefusedAfterFaultOrCancel
    { s with host := { s.host with cancelRequested := true } } r n
  cases hfault : s.host.fault with
  | some f => exact ⟨_, hafterFault f hfault⟩
  | none => exact ⟨_, hafterCancel hfault rfl⟩

/-- Settles O41: a tick ends with its slots, where a fault stopped them, or with the timebase and the result
record after them. -/
theorem tickCompletes : Obligations.TickCompletes := by
  intro s r n hfault hcancel
  refine ⟨tick r n s, exec_hostTick r n hfault hcancel, tick_frame r n s,
    (tick_cancelRequested r n s).trans hcancel, fun hnone => ?_, fun hstopped => ?_⟩
  · rw [tick_host] at hnone
    rw [tick_of_noFault hnone]
    refine ⟨_, by rw [closeTick_eq, List.getLast?_concat], ?_, rfl⟩
    rw [closeTick_cycleTotal, tickSlots_tb]
    rfl
  · rw [tick_host] at hstopped
    rw [tick_of_fault hstopped, tickSlots_tb]

/-- Settles O42: the slots of a tick that no fault stops are chained by `exists_slots_of_noFault`; what was
presented is said by `tickSlots_presents` for every tick. -/
theorem tickStepsEachModuleOnceInOrder : Obligations.TickStepsEachModuleOnceInOrder := by
  intro s t r n h
  obtain rfl := execHostTick_eq_next h
  obtain ⟨l, hprefix, hpresents, hall⟩ := tickSlots_presents r n s
  rw [tick_host]
  refine ⟨fun hstopped => ?_, fun hnone => ?_⟩
  · rw [tick_of_fault hstopped, hpresents.drop]
    exact hprefix
  · obtain ⟨s1, s2, s3, a1, a2, a3, h0, h1, h2, h3⟩ := exists_slots_of_noFault hnone
    obtain rfl := hall hnone
    have hcadence := closeTick_cadence (s := (tickSlots r n s).1) (by rw [tickSlots_tb])
      (tickSlots r n s).2
    rw [tickSlots_tb, tickSlots_params] at hcadence
    rw [tick_of_noFault hnone]
    refine ⟨(hpresents.trans (closeTick_presents _ _)).drop, openTick r s, s1, s2, s3, _, a1, a2, a3,
      _, ?_, ?_, h0, h1, h2, h3, closeTick_eq _ _, ?_, hcadence⟩
    · rintro rfl
      exact openTick_false s
    · rintro rfl
      exact openTick_true s
    · exact (closeTick_cycleTotal _ _).trans (by rw [tickSlots_tb]; rfl)

/-! Ticks whose steps issue no call. -/

section
variable (r : Bool) (ends : ModuleIx → StepEnd) (s : State) (acc : TickSums) (done : State × TickSums)

/-- Module `k` and its CPU as a slot without a call leaves them that ends with `ends k`. -/
def ClosedWith (k : ModuleIx) : Prop :=
  done.1.mod k = closedModule k r (ends k).halt (s.mod k) ∧ done.1.cpu.get k = (ends k).regs ∧
    done.2.haltEntry.get k = haltEdge (openedModule k r (s.mod k)).haltOut (ends k).halt

/-- Module `k`, its CPU and its halt entry are as before. -/
def Untouched (k : ModuleIx) : Prop :=
  done.1.mod k = s.mod k ∧ done.1.cpu.get k = s.cpu.get k ∧
    done.2.haltEntry.get k = acc.haltEntry.get k

/-- What the slots of the modules `l` lead to where each module's step issues no call and ends with `ends`. -/
structure CalllessSlots (l : List ModuleIx) : Prop where
  frame : done.1 = { s with mods := done.1.mods, cpu := done.1.cpu, out := done.1.out }
  closed : ∀ k ∈ l, ClosedWith r ends s done k
  untouched : ∀ k ∉ l, Untouched s acc done k
  sum : done.2.sum = l.foldl (fun x k => x + (ends k).cycles.setWidth 64) acc.sum
  c0 : done.2.c0 = if 0 ∈ l then (ends 0).cycles.setWidth 64 else acc.c0

end

section
variable {r n : Bool} {ends : ModuleIx → StepEnd} {s : State} {acc : TickSums}

theorem runSlot_callless {i : ModuleIx}
    (h : slotAnswer i r n s = .finish (ends i).regs (ends i).halt (ends i).cycles) :
    CalllessSlots r ends s acc (runSlot i r n s acc) [i] := by
  rw [runSlot_of_noCall (runCpuStep_of_slotAnswer_finish h)]
  exact {
    frame := rfl
    closed := fun k hk => by
      obtain rfl := List.mem_singleton.mp hk
      exact ⟨Four.get_set_same _ _ _, Four.get_set_same _ _ _, Four.get_set_same _ _ _⟩
    untouched := fun k hk => by
      have hne : k ≠ i := fun he => hk (List.mem_singleton.mpr he)
      exact ⟨Four.get_set_ne _ _ hne, Four.get_set_ne _ _ hne, Four.get_set_ne _ _ hne⟩
    sum := rfl
    c0 := by
      by_cases hi : i = 0
      · subst hi; simp
      · simp [hi, Ne.symm hi] }

theorem CalllessSlots.cons {i : ModuleIx} {rest : List ModuleIx} {mid done : State × TickSums}
    (hi : i ∉ rest) (h : CalllessSlots r ends s acc mid [i])
    (h' : CalllessSlots r ends mid.1 mid.2 done rest) :
    CalllessSlots r ends s acc done (i :: rest) where
  frame := by rw [h'.frame, h.frame]
  closed k hk := by
    rcases List.mem_cons.mp hk with rfl | hk
    · obtain ⟨hmod, hcpu, hentry⟩ := h.closed k (List.mem_singleton.mpr rfl)
      obtain ⟨hmod', hcpu', hentry'⟩ := h'.untouched k hi
      exact ⟨hmod'.trans hmod, hcpu'.trans hcpu, hentry'.trans hentry⟩
    · have hne : k ∉ [i] := fun he => hi (List.mem_singleton.mp he ▸ hk)
      obtain ⟨hmod, -, -⟩ := h.untouched k hne
      have hclosed := h'.closed k hk
      rwa [ClosedWith, hmod] at hclosed
  untouched k hk := by
    obtain ⟨hki, hkrest⟩ := not_or.mp (mt List.mem_cons.mpr hk)
    obtain ⟨hmod, hcpu, hentry⟩ := h.untouched k (mt List.mem_singleton.mp hki)
    obtain ⟨hmod', hcpu', hentry'⟩ := h'.untouched k hkrest
    exact ⟨hmod'.trans hmod, hcpu'.trans hcpu, hentry'.trans hentry⟩
  sum := by rw [h'.sum, h.sum]; rfl
  c0 := by
    rw [h'.c0, h.c0]
    by_cases h0 : 0 ∈ rest <;> simp [h0]

/-- The slots of different modules, none of which issues a call. What a slot answers does not change by the
slots before it. -/
theorem runSlots_callless {l : List ModuleIx} (hl : l.Nodup) (hfault : s.host.fault = none)
    (h : ∀ i ∈ l, slotAnswer i r n s = .finish (ends i).regs (ends i).halt (ends i).cycles) :
    CalllessSlots r ends s acc (runSlots r n l s acc) l := by
  induction l generalizing s acc with
  | nil => exact ⟨rfl, fun _ hk => absurd hk List.not_mem_nil, fun _ _ => ⟨rfl, rfl, rfl⟩, rfl, rfl⟩
  | cons i rest ih =>
    obtain ⟨hi, hrest⟩ := List.nodup_cons.mp hl
    have hslot := runSlot_callless (n := n) (acc := acc) (h i List.mem_cons_self)
    have hnone : (runSlot i r n s acc).1.host.fault = none := by
      rw [hslot.frame]
      exact hfault
    rw [runSlots_cons_of_noFault hnone]
    refine .cons hi hslot (ih hrest hnone fun k hk => ?_)
    have hne : k ∉ [i] := fun he => hi (List.mem_singleton.mp he ▸ hk)
    obtain ⟨hmod, hcpu, -⟩ := hslot.untouched k hne
    rw [← h k (List.mem_cons_of_mem i hk)]
    exact slotAnswer_congr (by rw [hslot.frame]) (by rw [hslot.frame]) hmod hcpu

/-- A tick whose four steps issue no call. -/
theorem tickSlots_callless (hfault : s.host.fault = none) (h : ∀ i, slotAnswer i r n (openTick r s) =
      .finish (ends i).regs (ends i).halt (ends i).cycles) :
    CalllessSlots r ends (openTick r s) noSums (tickSlots r n s) [0, 1, 2, 3] :=
  runSlots_callless (by decide) (by rw [openTick_host]; exact hfault) fun i _ => h i

/-- Such a tick changes of the block its modules, CFG where it starts with a board reset, and TB. -/
theorem tickSlots_frame_of_callless
    (h : CalllessSlots r ends (openTick r s) noSums (tickSlots r n s) [0, 1, 2, 3]) :
    (tickSlots r n s).1 = { s with
      mods := (tickSlots r n s).1.mods, cfg := (openTick r s).cfg, tb := (openTick r s).tb
      cpu := (tickSlots r n s).1.cpu, out := (tickSlots r n s).1.out } := by
  have hframe := h.frame
  rwa [openTick_frame] at hframe

end

theorem mem_modules (k : ModuleIx) : k ∈ [(0 : ModuleIx), 1, 2, 3] := by
  revert k; decide

/-- R21, R231: the reset state in numbers; R0 is twice the module's index. -/
theorem moduleAtReset_eq (k : ModuleIx) : moduleAtReset k = {
    r := { q0 := BitVec.ofNat 8 (2 * k.val), q1 := 0, q2 := 0, q3 := 0 }
    paging := 0, lastFetch := 0, rbc := 3
    latchReset := false, latchNmi := false, latchInt := false
    waitAsserted := false, rendezvousArmed := false, haltOut := false } := by
  revert k; decide

/-- How module `k`'s RESET step in a board reset ends (R172). -/
def boardResetEnd (n : Bool) (s : State) (k : ModuleIx) : StepEnd where
  regs := regsWithoutCalls (coreStep s.params k (s.cpu.get k) (slotSignals k true n (openTick true s)))
  halt := false
  cycles := s.params.resetStepCycles

theorem slotAnswer_of_boardReset (n : Bool) (s : State) (k : ModuleIx) :
    slotAnswer k true n (openTick true s) = .finish (boardResetEnd n s k).regs
      (boardResetEnd n s k).halt (boardResetEnd n s k).cycles := by
  rw [slotAnswer, cpuAnswer_of_reset (by simp [slotSignals, signalsOf, resetSignal])]
  simp only [boardResetEnd, openTick_true]

/-- Settles O43: under a board reset every slot is a RESET slot, whose step issues no call. -/
theorem boardResetTick : Obligations.BoardResetTick := by
  intro s n hfault hcancel
  have hslots := tickSlots_callless hfault (slotAnswer_of_boardReset n s)
  have hframe := tickSlots_frame_of_callless hslots
  have hnone : (tickSlots true n s).1.host.fault = none := by rw [hframe]; exact hfault
  have hcalls := (tickSlots_out true n s).trans (closeTick_presents _ (tickSlots true n s).2).out_prefix
  rw [openTick_true] at hcalls
  refine ⟨_, exec_hostTick true n hfault hcancel, ?_⟩
  rw [tick_of_noFault hnone]
  refine ⟨?_, hcalls, fun k => ?_, ?_, ?_⟩
  · rw [closeTick_eq, hframe]
  · obtain ⟨hmod, -, -⟩ := hslots.closed k (mem_modules k)
    rw [closeTick_mod, hmod, ← moduleAtReset_eq]
    exact closedModule_of_reset k rfl
  · rw [closeTick_eq, hframe, openTick_true]
  · rw [closeTick_cycleTotal, tickSlots_tb, hslots.sum]
    simp only [List.foldl_cons, List.foldl_nil, boardResetEnd, noSums]
    ring

/-- How module `k`'s step in a quiet tick ends, with HALT held (R174). -/
def quietEnd (regs : Fin 4 → CpuRegs) (halt : Fin 4 → Bool) (cycles : Fin 4 → BitVec 32) (s : State)
    (k : ModuleIx) : StepEnd where
  regs := regs k
  halt := halt k || (s.mod k).haltOut
  cycles := cycles k

/-- Settles O44: without an input every slot performs the CpuCore's own step, which issues no call. -/
theorem quietTick : Obligations.QuietTick := by
  intro s regs halt cycles hfault hcancel hslvwait hquiet
  have hanswer (k : ModuleIx) : slotAnswer k false false (openTick false s) = .finish
      (quietEnd regs halt cycles s k).regs (quietEnd regs halt cycles s k).halt
      (quietEnd regs halt cycles s k).cycles := by
    obtain ⟨hstep, hreset, hnmi, hint, hwait⟩ := hquiet k
    have hsignals : slotSignals k false false (openTick false s) =
        { reset := false, nmi := false, int := false, wait := false, halt := (s.mod k).haltOut } := by
      rw [slotSignals_of_noReset false (by rwa [openTick_mod]), signalsOf_noReset, openTick_mod]
      simp [openTick_false, hnmi, hint, hwait, hslvwait]
    rw [slotAnswer, hsignals, cpuAnswer_own (taken := false) rfl rfl (.inr rfl)]
    simp [openTick_false, hstep, keepHalt, quietEnd]
  have hslots := tickSlots_callless hfault hanswer
  have hframe := tickSlots_frame_of_callless hslots
  have hnone : (tickSlots false false s).1.host.fault = none := by rw [hframe]; exact hfault
  have hcadence := closeTick_cadence (s := (tickSlots false false s).1) (by rw [tickSlots_tb])
    (tickSlots false false s).2
  rw [tickSlots_tb, tickSlots_params, hslots.c0] at hcadence
  refine ⟨_, resultOf (closeTick (tickSlots false false s).1 (tickSlots false false s).2).tb
    (tickSlots false false s).2, exec_hostTick false false hfault hcancel, ?_⟩
  rw [tick_of_noFault hnone]
  refine ⟨?_, by rw [closeTick_eq, List.getLast?_concat], fun k => ?_, ?_, rfl, ?_, hcadence⟩
  · rw [closeTick_eq, hframe]
    rfl
  · obtain ⟨hmod, hcpu, hentry⟩ := hslots.closed k (mem_modules k)
    obtain ⟨-, hreset, hnmi, hint, -⟩ := hquiet k
    rw [openTick_mod] at hmod hentry
    rw [closedModule_of_noReset k hreset] at hmod
    rw [openedModule_of_noReset k hreset] at hentry
    rw [closeTick_mod, closeTick_cpu, hmod]
    refine ⟨hcpu, ?_, hentry.trans ?_⟩
    · simp [quietEnd, hnmi, hint]
    · simp [haltEdge, quietEnd, Bool.and_or_distrib_right]
  · refine hslots.sum.trans ?_
    simp [quietEnd, noSums]
  · rw [closeTick_cycleTotal, tickSlots_tb]
    rfl

end Sys2Proof.Machine
end

section
/-! PROOFS. The statements about what runs on whatever happens (60_exceptions.md): what no transaction changes,
by its effect on CFG and RAM, said once; and the tick of the total rendezvous deadlock. -/

namespace Sys2Proof.Machine

/-! What a transaction does to the state that the modules share, CFG and RAM. -/

/-- CFG and RAM are those of `s`. -/
def SameShared (s t : State) : Prop := t.cfg = s.cfg ∧ t.ram = s.ram

theorem SameShared.refl (s : State) : SameShared s s := ⟨rfl, rfl⟩

theorem decodedRead_sameShared (i : ModuleIx) (a : Addr) (s : State) :
    SameShared s (decodedRead i a s) := by
  rw [decodedRead_eq]
  exact .refl s

theorem mrd_sameShared (i : ModuleIx) (a : Addr) (s : State) : SameShared s (mrd i a s) := by
  unfold mrd
  split
  · exact decodedRead_sameShared i a s
  · exact .refl s

theorem mfetch_sameShared (i : ModuleIx) (a : Addr) (s : State) : SameShared s (mfetch i a s) := by
  simp only [mfetch]
  split
  · rw [rendezvousCheck_eq]
    exact decodedRead_sameShared i a (State.setMod _ i _)
  · exact .refl s

theorem mwr_cfg (i : ModuleIx) (a : Addr) (v : Byte) (s : State) : (mwr i a v s).cfg = s.cfg := by
  unfold mwr
  split
  · rfl
  · rcases decodedWrite_cases i a v s with h | ⟨pa, h⟩ | ⟨off, -, -, h⟩ <;> rw [h] <;> rfl

/-- A transaction of initiator `i` leaves CFG and RAM as they are, unless it is a memory write or a mapped
write, which may store into RAM (R125, R152), or a config write of module 0 (R149). -/
inductive SharedEffect (i : ModuleIx) (ins : Instr) (s t : State) : Prop
  | unchanged (same : SameShared s t)
  | memoryWrite (a : Addr) (v : Byte) (write : ins = .mwr i a v) (cfg : t.cfg = s.cfg)
  | mappedWrite (p : Port) (v : Byte) (write : ins = .iowrMapped i p v) (cfg : t.cfg = s.cfg)
  | configWrite (writer : i = 0) (ram : t.ram = s.ram)

theorem exec_sharedEffect {s t : State} {ins : Instr} {i : ModuleIx} (hi : initiator ins = some i)
    (h : exec ins s = .next t) : SharedEffect i ins s t := by
  cases ins <;> cases hi <;> cases h
  case mrd => exact .unchanged (mrd_sameShared _ _ _)
  case mfetch => exact .unchanged (mfetch_sameShared _ _ _)
  case mwr => exact .memoryWrite _ _ rfl (mwr_cfg _ _ _ _)
  case iowrMapped => exact .mappedWrite _ _ rfl rfl
  case iowrCfg =>
    unfold iowrCfg
    split
    · next hwriter => exact .configWrite hwriter rfl
    · exact .unchanged (.refl s)
  case iowrCtrl | iowrPaging | iordDev | iowrDev =>
    simp only [iowrCtrl, iowrPaging, iordDev, iowrDev]
    split <;> exact .unchanged (.refl s)
  case iordCtrl | iordStatus | iordCfg | iordMapped | inta | reti => exact .unchanged (.refl s)

/-- R47: a transaction records at most a fault. -/
theorem MemoryEffect.cancelRequested_eq {i : ModuleIx} {s t : State} (h : MemoryEffect i s t) :
    t.host.cancelRequested = s.host.cancelRequested := by
  cases h with
  | unchanged _ host | stored _ _ _ host | overflowed _ _ _ _ _ host => rw [host]

/-- Settles O39: the bus frame of every transaction, its effect on the host marks, and its effect on CFG and
RAM, which only the transactions named in the statement have. -/
theorem transactionFrame : Obligations.TransactionFrame := by
  intro s t ins i hi h
  refine ⟨exec_busFrame hi h, (exec_memoryEffect hi h).cancelRequested_eq, ?_⟩
  cases exec_sharedEffect hi h with
  | unchanged same =>
    obtain ⟨cfg, ram⟩ := same
    exact ⟨fun _ => cfg, fun _ _ => ram⟩
  | memoryWrite a v write cfg => exact ⟨fun _ => cfg, fun hno _ => absurd write (hno a v)⟩
  | mappedWrite p v write cfg => exact ⟨fun _ => cfg, fun _ hno => absurd write (hno p v)⟩
  | configWrite writer ram => exact ⟨fun hno => absurd writer hno, fun _ _ => ram⟩

/-! The tick in which every module waits (R173, R218). -/

/-- R171, R173: a module that waits, with no latch and no INT from the host, takes a WAIT step. -/
theorem slotAnswer_of_waiting {i : ModuleIx} {s : State} (hwait : (s.mod i).waitAsserted = true)
    (hreset : (s.mod i).latchReset = false) (hnmi : (s.mod i).latchNmi = false)
    (hint : (s.mod i).latchInt = false) : slotAnswer i false false s =
      .finish (waitEnd i s).regs (waitEnd i s).halt (waitEnd i s).cycles := by
  rw [slotAnswer, slotSignals_of_noReset false hreset]
  exact cpuAnswer_of_wait rfl hnmi (noEffectiveInt (.inl ⟨hint, .inl rfl⟩))
    (waitSignal_eq_true (.inl hwait))

/-- R173: after its WAIT step a module without a latch is as it was. -/
theorem closedModule_of_waitEnd {i : ModuleIx} {s : State} (hreset : (s.mod i).latchReset = false)
    (hnmi : (s.mod i).latchNmi = false) (hint : (s.mod i).latchInt = false) :
    closedModule i false (waitEnd i s).halt (s.mod i) = s.mod i := by
  calc closedModule i false (waitEnd i s).halt (s.mod i)
      = { s.mod i with latchNmi := false, latchInt := false } := closedModule_of_noReset i hreset
    _ = { s.mod i with latchNmi := (s.mod i).latchNmi, latchInt := (s.mod i).latchInt } := by
        rw [hnmi, hint]
    _ = s.mod i := rfl

/-- Settles O45: all four slots are WAIT steps, which issue no call and give back the module and the register
state they were given. -/
theorem rendezvousDeadlockGoesOn : Obligations.RendezvousDeadlockGoesOn := by
  intro s hfault hcancel hdeadlock
  have hanswer (k : ModuleIx) : slotAnswer k false false (openTick false s) =
      .finish (waitEnd k s).regs (waitEnd k s).halt (waitEnd k s).cycles := by
    obtain ⟨hwait, hreset, hnmi, hint⟩ := hdeadlock k
    exact slotAnswer_of_waiting (s := openTick false s) hwait hreset hnmi hint
  have hslots := tickSlots_callless (ends := (waitEnd · s)) hfault hanswer
  have hframe := tickSlots_frame_of_callless hslots
  have hmods : (tickSlots false false s).1.mods = s.mods := Four.ext_get fun k => by
    obtain ⟨hmod, -, -⟩ := hslots.closed k (mem_modules k)
    obtain ⟨-, hreset, hnmi, hint⟩ := hdeadlock k
    exact hmod.trans (closedModule_of_waitEnd hreset hnmi hint)
  have hcpu : (tickSlots false false s).1.cpu = s.cpu := Four.ext_get fun k => by
    obtain ⟨-, hregs, -⟩ := hslots.closed k (mem_modules k)
    exact hregs
  have hnone : (tickSlots false false s).1.host.fault = none := by rw [hframe]; exact hfault
  rw [hmods, hcpu] at hframe
  refine ⟨_, exec_hostTick false false hfault hcancel, ?_⟩
  rw [tick_of_noFault hnone]
  refine ⟨?_, ?_⟩
  · rw [closeTick_eq, hframe]
    rfl
  · rw [closeTick_cycleTotal, tickSlots_tb, hslots.sum]
    simp only [List.foldl_cons, List.foldl_nil, waitEnd, noSums]
    ring

end Sys2Proof.Machine
end

section
/-! PROOFS. The statements about reset (70_reset_and_hazards.md): the slot of a module with RESET, and the
state at power-on. -/

namespace Sys2Proof.Machine

/-- R172: in the slot of a module with RESET, from either source, the CpuCore's step issues no call and ends
without HALT after RESET_STEP_CYCLES. -/
theorem slotAnswer_of_reset {i : ModuleIx} {r : Bool} {s : State}
    (hreset : resetSignal (s.mod i) r = true) (n : Bool) :
    ∃ regs, slotAnswer i r n s = .finish regs false s.params.resetStepCycles :=
  ⟨_, cpuAnswer_of_reset hreset s.params i (s.cpu.get i)⟩

/-- R183: a step that ends without HALT reports no halt entry. -/
theorem haltEdge_of_noHalt (before : Bool) : haltEdge before false = false := Bool.false_and _

/-- Settles O48: the RESET step issues no call, so the slot changes what a slot without calls changes, and its
module is closed in its reset state. -/
theorem resetSlot : Obligations.ResetSlot := by
  intro s i r n acc _ hreset
  obtain ⟨regs, hanswer⟩ := slotAnswer_of_reset hreset n
  have hslot := runSlot_callless (ends := fun _ => ⟨regs, false, s.params.resetStepCycles⟩)
    (acc := acc) hanswer
  obtain ⟨hmod, -, hentry⟩ := hslot.closed i (List.mem_singleton.mpr rfl)
  have hother (k : ModuleIx) (hk : k ≠ i) := hslot.untouched k (mt List.mem_singleton.mp hk)
  refine ⟨(runSlot i r n s acc).1, (runSlot i r n s acc).2, rfl, hslot.frame, fun k hk => ?_, ?_,
    fun k hk => ?_, hslot.sum, ?_⟩
  · obtain ⟨-, hcpu, -⟩ := hother k hk
    exact hcpu
  · rw [hmod, closedModule_of_reset i hreset, moduleAtReset_eq]
  · obtain ⟨hmodule, -, -⟩ := hother k hk
    exact hmodule
  · exact hentry.trans (haltEdge_of_noHalt _)

/-- R233: at power-on every module is in its reset state. -/
theorem reset_mod (k : ModuleIx) : State.reset.mod k = moduleAtReset k := Four.get_tabulate _ k

/-- R48, R49: the arrays at power-on are well-formed, because they list no byte. -/
theorem reset_arraysWf : arraysWf State.reset = true := by decide

/-- R47, R201: the fault mark at power-on is legal, because no fault is recorded. -/
theorem reset_faultLegal : faultLegal State.reset = true := rfl

/-- Settles O60: the modules by their reset state in numbers, CFG, TB and the host marks by their values, the
invariants as above. -/
theorem powerOnState : Obligations.PowerOnState :=
  ⟨fun k => (reset_mod k).trans (moduleAtReset_eq k), rfl, rfl, rfl, reset_arraysWf,
    reset_faultLegal⟩

end Sys2Proof.Machine
end
